-- ==== Sys2Proof/Word.lean ====
section
/-! DEFINITION. The two element widths of the engine (00_scope R10). -/

namespace Sys2Proof

/-- A control or status register, a command word, or an ORD element: 32 bits (00_scope R10). -/
abbrev Word := BitVec 32

/-- An IBUF, OBUF or LST element, a symbol: 8 bits, unsigned (00_scope R10, R13). -/
abbrev Byte := BitVec 8

end Sys2Proof
end

