-- ==== Sys2Proof/Syntax.lean ====
section
/-! DEFINITION. The commands: one constructor for each of the 13 legal words, and the one command
format. -/

namespace Sys2Proof

/-- The 13 commands (30_encoding R84), one constructor a row of the opcode table. No command carries
an operand (R82): a suffix `S` is the SER flag (`.s`), a suffix `C` the CONT flag (`.c`) (R88). -/
inductive Instr where
  | nop
  | sort
  | cmpr
  | bwte
  | bwteS
  | bwtd
  | bwtdS
  | mtfe
  | mtfeC
  | mtfd
  | mtfdC
  | mtfi
  | move
  deriving DecidableEq, Repr

/-- The fields of a CMD32 word (30_encoding R81), before anything is known of its legality. -/
structure Cmd32 where
  /-- OP, bits 3:0. -/
  op : BitVec 4
  /-- C, bit 4: continue the MTF stream. -/
  c : Bool
  /-- S, bit 5: serialised origin-rank header. -/
  s : Bool
  /-- Bits 31:6, which must be 0. -/
  reserved : BitVec 26
  deriving DecidableEq, Repr

end Sys2Proof
end

