-- ==== Sys2Proof/WellFormed.lean ====
section
/-! DEFINITION. Which CMD32 fields make a legal command. A term of `Instr` carries no operand
(30_encoding R82), so it is well formed as it stands; the checks are on the fields of a word. -/

namespace Sys2Proof

/-- The reserved bits are 0 (30_encoding R81, R85). -/
def Cmd32.reservedOk (f : Cmd32) : Bool := f.reserved == 0#26

/-- OP is one of 0x0..0x8 (30_encoding R83, R85). -/
def Cmd32.opOk (f : Cmd32) : Bool := f.op.toNat < 9

/-- C is set on MTFE (5) and MTFD (6) only (30_encoding R83, R85). -/
def Cmd32.contOk (f : Cmd32) : Bool := !f.c || f.op == 0x5#4 || f.op == 0x6#4

/-- S is set on BWTE (3) and BWTD (4) only (30_encoding R83, R85). -/
def Cmd32.serOk (f : Cmd32) : Bool := !f.s || f.op == 0x3#4 || f.op == 0x4#4

/-- A well-formed command word's fields: all four checks (30_encoding R85). -/
def Cmd32.wf (f : Cmd32) : Bool := f.reservedOk && f.opOk && f.contOk && f.serOk

end Sys2Proof
end

