-- ==== Sys2Proof/Decode.lean ====
section
/-! DEFINITION. Decoding a command word, total on all 2^32 words and refusing by name, and the
encoder. Every command is exactly one 32-bit word (30_encoding R80). -/

namespace Sys2Proof

/-- Why a word is illegal: the four tests of the decoder (30_encoding R85), in its order. -/
inductive Illegal where
  /-- A bit of 31:6 is set. -/
  | reservedBits
  /-- OP is 0x9..0xF. -/
  | reservedOp
  /-- C = 1 on a command that does not take it. -/
  | contNotTaken
  /-- S = 1 on a command that does not take it. -/
  | serNotTaken
  deriving DecidableEq, Repr

/-- What a decoder answers (30_encoding R85): a command, or Illegal with the test that failed. -/
inductive Decoded where
  | legal (i : Instr)
  | illegal (why : Illegal)
  deriving DecidableEq, Repr

/-- The fields of a word (30_encoding R81). -/
def Cmd32.ofWord (w : Word) : Cmd32 :=
  { op := w.extractLsb' 0 4
    c := w.getLsbD 4
    s := w.getLsbD 5
    reserved := w.extractLsb' 6 26 }

/-- The word with these fields (30_encoding R81). -/
def Cmd32.toWord (f : Cmd32) : Word :=
  f.reserved ++ BitVec.ofBool f.s ++ BitVec.ofBool f.c ++ f.op

/-- The command that OP and the flags select (30_encoding R83); a flag is looked at only by the
commands that take it. -/
def Cmd32.select (f : Cmd32) : Decoded :=
  match f.op.toNat with
  | 0 => .legal .nop
  | 1 => .legal .sort
  | 2 => .legal .cmpr
  | 3 => .legal (if f.s then .bwteS else .bwte)
  | 4 => .legal (if f.s then .bwtdS else .bwtd)
  | 5 => .legal (if f.c then .mtfeC else .mtfe)
  | 6 => .legal (if f.c then .mtfdC else .mtfd)
  | 7 => .legal .mtfi
  | 8 => .legal .move
  | _ => .illegal .reservedOp

/-- Decoding the fields: the tests of 30_encoding R85 in its order, then R83's map. -/
def Cmd32.decode (f : Cmd32) : Decoded :=
  if !f.reservedOk then .illegal .reservedBits
  else if !f.opOk then .illegal .reservedOp
  else if !f.contOk then .illegal .contNotTaken
  else if !f.serOk then .illegal .serNotTaken
  else f.select

/-- Decoding a command word (30_encoding R85). -/
def decode (w : Word) : Decoded := (Cmd32.ofWord w).decode

/-- The fields of each command (30_encoding R83, R84). -/
def Instr.fields : Instr → Cmd32
  | .nop => ⟨0x0#4, false, false, 0#26⟩
  | .sort => ⟨0x1#4, false, false, 0#26⟩
  | .cmpr => ⟨0x2#4, false, false, 0#26⟩
  | .bwte => ⟨0x3#4, false, false, 0#26⟩
  | .bwteS => ⟨0x3#4, false, true, 0#26⟩
  | .bwtd => ⟨0x4#4, false, false, 0#26⟩
  | .bwtdS => ⟨0x4#4, false, true, 0#26⟩
  | .mtfe => ⟨0x5#4, false, false, 0#26⟩
  | .mtfeC => ⟨0x5#4, true, false, 0#26⟩
  | .mtfd => ⟨0x6#4, false, false, 0#26⟩
  | .mtfdC => ⟨0x6#4, true, false, 0#26⟩
  | .mtfi => ⟨0x7#4, false, false, 0#26⟩
  | .move => ⟨0x8#4, false, false, 0#26⟩

/-- The command word of a command (30_encoding R81, R84). -/
def encode (i : Instr) : Word := i.fields.toWord

/-- The command the decoder reads from a table row's word `w` of `nbits` bits, bit 0 the least
significant; bits above `nbits` are 0, and no command is longer than 32 bits (30_encoding R80). -/
def decodeTableWord (nbits w : Nat) : Option Instr :=
  if 32 < nbits then none
  else
    match decode (BitVec.ofNat 32 (w % 2 ^ nbits)) with
    | .legal i => some i
    | .illegal _ => none

end Sys2Proof
end

