-- ==== Sys2Proof/Config.lean ====
section
/-! DEFINITION. What one part fixes: the block length NMAX (left open), the alphabet size, the
identification word. -/

namespace Sys2Proof

/-- NMAX less one, a free value: the spec leaves NMAX open within 1..2^31 (00_scope R7; decision
D4), so nothing here says which value it is. DESIGN CHOICE, safe, log 1. -/
opaque Config.nmaxLessOne : BitVec 31

/-- NMAX, the largest block length: 1 <= NMAX <= 2^31 (00_scope R7). -/
def Config.nmax : Nat := Config.nmaxLessOne.toNat + 1

/-- The alphabet size of this hardware (00_scope R9; 10_state R40). -/
def Config.alpha : Nat := 256

/-- The constant of the ID register (10_state R41). -/
def Config.idWord : Word := 0x42575431#32

end Sys2Proof
end

