-- ==== Sys2Proof/Machine/State.lean ====
section
/-! DEFINITION. The state of the engine and of its host port, as plain data, and the state after
reset. -/

namespace Sys2Proof.Machine

/-- The mapped spaces of the host port (20_memory R61). -/
inductive Space where
  | csr
  | ibuf
  | obuf
  | ord
  | lst
  deriving DecidableEq, Repr

/-- The 14 control and status registers, in the order of their indices 0..13 (10_state R22). -/
inductive Csr where
  | cmd
  | status
  | config
  | len
  | origin
  | arg0
  | arg1
  | result
  | olen
  | errinfo
  | errpos
  | cap
  | alpha
  | id
  deriving DecidableEq, Repr

/-- The errors a command can complete with (60_exceptions R172): codes 1 to 7. -/
inductive ErrCode where
  | illegalCmd
  | lenRange
  | hdrShort
  | originRange
  | argRange
  | symbolRange
  | rankRange
  deriving DecidableEq, Repr

/-- The implemented fields of STATUS (10_state R25). The reserved bits hold nothing and read as 0
(R23, R25; log 14). -/
structure Status where
  /-- Bit 0: a command is in flight (R26). -/
  busy : Bool
  /-- Bit 1: the last issued command has completed (R27). -/
  done : Bool
  /-- Bit 2: the last completed command ended in an error (R28). -/
  err : Bool
  /-- Bit 3: a host write was dropped because the engine was busy (R29). -/
  haz : Bool
  /-- Bits 11:8: the error code, 0 when ERR = 0 (R28). -/
  errcode : BitVec 4
  deriving DecidableEq, Repr

/-- A host-port transaction (20_memory R60): a 3-bit space number, a 32-bit element index, and for a
write the data, of which a byte space takes bits 7:0 (log 9). -/
inductive Transaction where
  | read (space : BitVec 3) (index : Word)
  | write (space : BitVec 3) (index : Word) (data : Word)
  deriving DecidableEq, Repr

/-- Whose turn it is: the engine's (a completion, if a command is in flight), the host's, or a reset
from outside (20_memory R70; 60_exceptions R174, R179; 70_reset R191). DESIGN CHOICE, safe, log 2. -/
inductive Move where
  | engine
  | host (t : Transaction)
  | reset
  deriving DecidableEq, Repr

/-- The answer the last host transaction got (20_memory R60): none yet, OKAY for a write, OKAY with
the data for a read. The model's own field. DESIGN CHOICE, safe, log 3. -/
inductive Response where
  | none
  | okay
  | data (w : Word)
  deriving DecidableEq, Repr

/-- The model faults of 60_exceptions R181, and no others. -/
inductive Fault where
  /-- A command or a host read met an element of IBUF, OBUF or ORD that nothing has written since
  reset (70_reset R193). Raised by the operand reads of the commands and by host reads. Safe: the
  hardware goes on with whatever the storage holds. -/
  | unwritten (space : Space) (index : Nat)
  /-- A host transaction was refused: unmapped space or index out of range (20_memory R65). Raised by
  host transactions. Safe: the hardware answers DECERR, changes nothing and goes on. -/
  | decerr (space : BitVec 3) (index : Word)
  /-- A host read, while BUSY, of a value the command in flight may change (70_reset R195). Raised by
  host reads. Safe: the hardware answers some value and goes on. -/
  | busyRead (space : Space) (index : Nat)
  deriving DecidableEq, Repr

/-- The reasons a step is refused. -/
inductive Refusal where
  /-- The command has no meaning in the model yet. Raised by an arm of `exec` only. Safe: the
  machine stops. No arm raises it. -/
  | notModelled (mnemonic : String)
  deriving DecidableEq, Repr

/-- The state of the engine (10_state), with the two fields `moves` and `port` of the model's own.
A buffer is the list of its written elements, rising by index (R49; log 7). ID is hard-wired and has
no field (R41; log 11); irq is a function of the state (R50; log 12). -/
structure State where
  /-- CMD: the last word issued; the command in flight while BUSY (10_state R24, R48). -/
  cmd : Word
  /-- STATUS (R25). -/
  status : Status
  /-- CONFIG.IE, the interrupt enable (R30). -/
  ie : Bool
  /-- LEN (R31). -/
  len : Word
  /-- ORIGIN (R32). -/
  origin : Word
  /-- ARG0 (R33). -/
  arg0 : Word
  /-- ARG1 (R34). -/
  arg1 : Word
  /-- RESULT (R35). -/
  result : Word
  /-- OLEN (R36). -/
  olen : Word
  /-- ERRINFO (R37). -/
  errinfo : Word
  /-- ERRPOS (R38). -/
  errpos : Word
  /-- CAP, the constant NMAX (R39). -/
  cap : Word
  /-- ALPHA, the constant alphabet size (R40). -/
  alpha : Word
  /-- IBUF (R42). -/
  ibuf : List Host.Cell
  /-- OBUF (R43). -/
  obuf : List Host.Cell
  /-- ORD (R44), whose elements are whole 32-bit words (20_memory R63). -/
  ord : List (Nat × Word)
  /-- LST, the recency list: the symbol at each rank (R45). -/
  lst : List Byte
  /-- CNT, the 256 counters of the BWT mapper (R47; log 5). -/
  cnt : List Nat
  /-- Whose turns come next, first first (log 2). -/
  moves : List Move
  /-- The answer to the last host transaction (log 3). -/
  port : Response
  deriving DecidableEq, Repr

/-- The identity recency list [0, 1, ..., n-1] (10_state R45). -/
def identityList (n : Nat) : List Byte := (List.range n).map (BitVec.ofNat 8)

/-- The state after reset of a part with the given CAP and ALPHA constants (70_reset R190). CNT has
no reset value in the spec: 0 is a DESIGN CHOICE, unsafe, log 5. -/
def State.resetFor (cap alpha : Word) : State :=
  { cmd := 0#32
    status := ⟨false, false, false, false, 0#4⟩
    ie := false
    len := 0#32
    origin := 0#32
    arg0 := 0#32
    arg1 := 0#32
    result := 0#32
    olen := 0#32
    errinfo := 0#32
    errpos := 0#32
    cap := cap
    alpha := alpha
    ibuf := []
    obuf := []
    ord := []
    lst := identityList alpha.toNat
    cnt := List.replicate 256 0
    moves := []
    port := .none }

/-- The state after reset of this hardware: CAP = NMAX, whatever it is, and ALPHA = 256
(70_reset R190; 10_state R39, R40). -/
def State.reset : State :=
  State.resetFor (BitVec.ofNat 32 Config.nmax) (BitVec.ofNat 32 Config.alpha)

end Sys2Proof.Machine
end

