-- ==== Sys2Proof/Machine/Ops.lean ====
section
/-! DEFINITION. The operations all commands and transactions share: reading and writing storage,
issuing a command, completing it, ending it in an error, and clearing an error. -/

namespace Sys2Proof.Machine

/-- What a run of the machine answers. -/
abbrev Result := Host.Outcome State Fault Refusal

/-! ## Storage: sparse lists of written elements -/

/-- The canonical form of a storage: indices strictly rising. An unlisted element is unwritten and
holds no value (10_state R49), so no entry is redundant. -/
abbrev Memory.wf {α : Type} (m : List (Nat × α)) : Prop :=
  m.Pairwise (fun p q => p.1 < q.1)

/-- Element `a`, or none if nothing has written it (10_state R49). -/
def Memory.read {α : Type} : List (Nat × α) → Nat → Option α
  | [], _ => none
  | (k, v) :: m, a => if k = a then some v else Memory.read m a

/-- Writing element `a`, in the canonical form; it is written from then on (10_state R49). -/
def Memory.write {α : Type} : List (Nat × α) → Nat → α → List (Nat × α)
  | [], a, v => [(a, v)]
  | (k, w) :: m, a, v =>
    if a < k then (a, v) :: (k, w) :: m
    else if a = k then (a, v) :: m
    else (k, w) :: Memory.write m a v

/-- `MemRead(S[a], n)` (00_scope R14): the `n` elements from `a` on, or the index of the first one
that is unwritten (log 7). -/
def Memory.readMany {α : Type} (m : List (Nat × α)) : Nat → Nat → Except Nat (List α)
  | _, 0 => .ok []
  | a, n + 1 =>
    match Memory.read m a with
    | none => .error a
    | some v =>
      match Memory.readMany m (a + 1) n with
      | .ok vs => .ok (v :: vs)
      | .error i => .error i

/-- `MemWrite(S[a], n, vs)` (00_scope R14): the elements of `vs` from index `a` on. -/
def Memory.writeMany {α : Type} : List (Nat × α) → Nat → List α → List (Nat × α)
  | m, _, [] => m
  | m, a, v :: vs => Memory.writeMany (Memory.write m a v) (a + 1) vs

/-! ## Parameters -/

/-- NMAX, as CAP holds it (10_state R39; 00_scope R7). -/
def State.nmax (s : State) : Nat := s.cap.toNat

/-- BUFSZ = NMAX + 4 (00_scope R8). -/
def State.bufsz (s : State) : Nat := s.nmax + 4

/-! ## Issue, completion and errors -/

/-- The number of an error code (60_exceptions R172). -/
def ErrCode.number : ErrCode → BitVec 4
  | .illegalCmd => 1#4
  | .lenRange => 2#4
  | .hdrShort => 3#4
  | .originRange => 4#4
  | .argRange => 5#4
  | .symbolRange => 6#4
  | .rankRange => 7#4

/-- Issuing the word `w` (10_state R24): CMD takes it, BUSY is set, DONE, ERR, ERRCODE, ERRINFO and
ERRPOS are cleared, HAZ is left. -/
def issue (w : Word) (s : State) : State :=
  { s with
    cmd := w
    status := { s.status with busy := true, done := false, err := false, errcode := 0#4 }
    errinfo := 0#32
    errpos := 0#32 }

/-- Completion without an error (60_exceptions R174): BUSY <- 0 and DONE <- 1. -/
def complete (s : State) : State :=
  { s with status := { s.status with busy := false, done := true } }

/-- `raise Error(code, info, pos)`, the engine's exception: it completes the command with its error
in STATUS, ERRINFO and ERRPOS and changes nothing else (60_exceptions R171, R174, R175). -/
def raiseError (code : ErrCode) (info pos : Word) (s : State) : State :=
  complete
    { s with
      status := { s.status with err := true, errcode := code.number }
      errinfo := info
      errpos := pos }

/-- The host's acknowledgement of an error, the return from it: ERR and ERRCODE are cleared, ERRINFO
and ERRPOS are left (60_exceptions R176; 10_state R28). -/
def acknowledgeError (st : Status) : Status := { st with err := false, errcode := 0#4 }

/-- Completion of an illegal word (30_encoding R86; 60_exceptions R174). -/
def completeIllegal (s : State) : State := raiseError .illegalCmd s.cmd 0#32 s

/-- A host write dropped because the engine is busy: HAZ is set, nothing else changes
(70_reset R194; 10_state R29). -/
def dropWrite (s : State) : State := { s with status := { s.status with haz := true } }

/-- Reset from outside (70_reset R190, R191): a command in flight is abandoned. The constants CAP
and ALPHA stay, and so does what the outside world does next (log 13). -/
def resetMachine (s : State) : State :=
  { State.resetFor s.cap s.alpha with moves := s.moves }

/-- The command in flight, decoded (10_state R48; 60_exceptions R174). -/
def fetch (s : State) : Decoded := decode s.cmd

/-! ## The two phases of a command -/

/-- What a check phase comes to (00_scope R15): what the commit needs, an error, or a model fault. -/
inductive Check (α : Type) where
  | ok (a : α)
  | raise (code : ErrCode) (info pos : Word)
  | fault (f : Fault)
  deriving DecidableEq, Repr

/-- One check after another: the first that fails ends the phase (60_exceptions R173). -/
def Check.bind {α β : Type} (c : Check α) (k : α → Check β) : Check β :=
  match c with
  | .ok a => k a
  | .raise e info pos => .raise e info pos
  | .fault f => .fault f

/-- `if bad then raise Error(code, info, pos)` (00_scope R14). -/
def raiseIf (bad : Bool) (code : ErrCode) (info pos : Word) : Check Unit :=
  if bad then .raise code info pos else .ok ()

/-- A command's read of the `n` elements from `a` on of a space; the lowest unwritten one is the
fault (70_reset R193; log 7). -/
def memRead {α : Type} (space : Space) (m : List (Nat × α)) (a n : Nat) : Check (List α) :=
  match Memory.readMany m a n with
  | .ok vs => .ok vs
  | .error i => .fault (.unwritten space i)

/-- A command: its check phase, then its commit and its completion, or the error, or the model
fault (00_scope R15; 60_exceptions R171, R174). -/
def runCommand {α : Type} (check : Check α) (commit : α → State → State) (s : State) : Result :=
  match check with
  | .ok a => .next (complete (commit a s))
  | .raise code info pos => .next (raiseError code info pos s)
  | .fault f => .fault f

/-! ## The writes of the commit phases -/

/-- ORD[0..] takes the indices (20_memory R68). -/
def putOrder (order : List Nat) (s : State) : State :=
  { s with ord := Memory.writeMany s.ord 0 (order.map (BitVec.ofNat 32)) }

/-- OBUF[0..] takes the bytes and OLEN their number, in one commit (10_state R36, R43). -/
def putOutput (ys : List Byte) (s : State) : State :=
  { s with
    obuf := Memory.writeMany s.obuf 0 ys
    olen := BitVec.ofNat 32 ys.length }

/-- IBUF[0..] takes the bytes and LEN their number (43_control R161). -/
def putInput (vs : List Byte) (s : State) : State :=
  { s with
    ibuf := Memory.writeMany s.ibuf 0 vs
    len := BitVec.ofNat 32 vs.length }

/-- csr.ORIGIN <- r. -/
def putOrigin (r : Word) (s : State) : State := { s with origin := r }

/-- csr.RESULT <- r. -/
def putResult (r : Word) (s : State) : State := { s with result := r }

/-- LST <- l. -/
def putList (l : List Byte) (s : State) : State := { s with lst := l }

/-- CNT <- c. -/
def putCounters (c : List Nat) (s : State) : State := { s with cnt := c }

end Sys2Proof.Machine
end

