-- ==== Sys2Proof/Machine/Operands.lean ====
section
/-! DEFINITION. The implicit operands of the commands (30_encoding R82; 20_memory R68) and the one
layout of a number in bytes (20_memory R62). -/

namespace Sys2Proof.Machine

/-- `if csr.LEN > capacity then raise Error(2 LEN_RANGE, info = csr.LEN, pos = 0)`
(60_exceptions R172). -/
def checkLen (capacity : Nat) (s : State) : Check Unit :=
  raiseIf (capacity < s.len.toNat) .lenRange s.len 0#32

/-- IBUF[a..a+n-1] read by a command. -/
def readInput (a n : Nat) (s : State) : Check (List Byte) := memRead .ibuf s.ibuf a n

/-- The block or transform of SORT, CMPR, BWTE and `bwtd`: LEN bytes, at most NMAX. -/
def readBlock (s : State) : Check (List Byte) :=
  (checkLen s.nmax s).bind fun _ => readInput 0 s.len.toNat s

/-- The stream of MTFE and MTFD: LEN bytes, at most BUFSZ. -/
def readStream (s : State) : Check (List Byte) :=
  (checkLen s.bufsz s).bind fun _ => readInput 0 s.len.toNat s

/-- The serialised origin rank, four bytes, most significant first (20_memory R62). -/
def headerBytes (r : Word) : List Byte :=
  [r.extractLsb' 24 8, r.extractLsb' 16 8, r.extractLsb' 8 8, r.extractLsb' 0 8]

/-- The origin rank that four header bytes hold (20_memory R62; 41_bwt R125). Only four bytes are
ever read; another length has no rank and stands for 0 (log 10). -/
def headerRank : List Byte → Word
  | [b0, b1, b2, b3] => b0 ++ b1 ++ b2 ++ b3
  | _ => 0#32

end Sys2Proof.Machine
end

