-- ==== Sys2Proof/Machine/SuffixSort.lean ====
section
/-! DEFINITION. The suffix sorter: rotations, the cyclic comparator, the sorted order, and the
commands SORT and CMPR (40_suffix_sort). -/

namespace Sys2Proof.Machine

/-- The byte at cyclic position `i` of a block: `b[i mod n]` (40_suffix_sort R100). -/
def cyclicAt (b : List Byte) (i : Nat) : Byte := b.getD (i % b.length) 0#8

/-- Rotation(i), as a sequence (40_suffix_sort R100). The machine never builds it; statements do. -/
def rotationOf (b : List Byte) (i : Nat) : List Byte :=
  (List.range b.length).map fun k => cyclicAt b (i + k)

/-- The comparator's loop from character `k` on, with `fuel` comparisons left
(40_suffix_sort R101). -/
def cmpFrom (b : List Byte) (i j : Nat) : Nat → Nat → Ordering
  | 0, _ => .eq
  | fuel + 1, k =>
    if cyclicAt b (i + k) < cyclicAt b (j + k) then .lt
    else if cyclicAt b (j + k) < cyclicAt b (i + k) then .gt
    else cmpFrom b i j fuel (k + 1)

/-- cmpRot(b, n, i, j) (40_suffix_sort R101): at most n comparisons of unsigned bytes. -/
def cmpRot (b : List Byte) (i j : Nat) : Ordering := cmpFrom b i j b.length 0

/-- `i ≺ j`, the order of SortOrder (40_suffix_sort R102): by rotation, ties by start index. -/
def precedes (b : List Byte) (i j : Nat) : Bool :=
  cmpRot b i j == .lt || (cmpRot b i j == .eq && decide (i < j))

/-- SortOrder(b): the indices 0..n-1 in ascending order under ≺ (40_suffix_sort R102). The method is
not architectural (R107); insertion is used here. -/
def sortOrder (b : List Byte) : List Nat :=
  (List.range b.length).insertionSort fun i j => precedes b j i = false

/-- SORT (40_suffix_sort R104). -/
def execSort (s : State) : Result :=
  runCommand (readBlock s) (fun b => putOrder (sortOrder b)) s

/-- The value of RESULT for each outcome of the comparator (40_suffix_sort R103; 10_state R35). -/
def resultWord : Ordering → Word
  | .lt => (1#1).signExtend 32
  | .eq => 0#32
  | .gt => 1#32

/-- The check phase of CMPR (40_suffix_sort R103): LEN, then ARG0, then ARG1, then the read. -/
def checkCmpr (s : State) : Check (List Byte) :=
  (checkLen s.nmax s).bind fun _ =>
  (raiseIf (s.len.toNat ≤ s.arg0.toNat) .argRange s.arg0 0#32).bind fun _ =>
  (raiseIf (s.len.toNat ≤ s.arg1.toNat) .argRange s.arg1 1#32).bind fun _ =>
  readInput 0 s.len.toNat s

/-- CMPR (40_suffix_sort R103). -/
def execCmpr (s : State) : Result :=
  runCommand (checkCmpr s)
    (fun b => putResult (resultWord (cmpRot b s.arg0.toNat s.arg1.toNat))) s

end Sys2Proof.Machine
end

