-- ==== Sys2Proof/Machine/Bwt.lean ====
section
/-! DEFINITION. The BWT mapper: the forward transform, the successor array, the inverse walk, and the
commands BWTE and BWTD in both forms (41_bwt). -/

namespace Sys2Proof.Machine

/-- originRank(b): the rank of rotation 0; 0 for the empty block (41_bwt R120). -/
def originRank (b : List Byte) : Nat := (sortOrder b).idxOf 0

/-- The last character of the rotation that starts at `i`: `b[(i + n - 1) mod n]` (41_bwt R120). -/
def lastChar (b : List Byte) (i : Nat) : Byte := cyclicAt b (i + b.length - 1)

/-- transform(b): the last column of the sorted rotations (41_bwt R120). -/
def transform (b : List Byte) : List Byte := (sortOrder b).map (lastChar b)

/-- One write of the counting table (41_bwt R123): CNT[v] <- CNT[v] + 1. -/
def bumpCounter (cnt : List Nat) (v : Byte) : List Nat := cnt.modify v.toNat (· + 1)

/-- The counts of the 256 byte values, from zero (41_bwt R123). -/
def countSymbols (t : List Byte) : List Nat := t.foldl bumpCounter (List.replicate 256 0)

/-- The counts turned into the start rank of each value, `start` the sum so far (41_bwt R123). -/
def startRanks (start : Nat) : List Nat → List Nat
  | [] => []
  | c :: cs => start :: startRanks (start + c) cs

/-- The placement loop from position `i` on (41_bwt R123): next[CNT[t[i]]] <- i, then
CNT[t[i]] <- CNT[t[i]] + 1. The pair is `next` and CNT. -/
def placeSymbols : Nat → List Byte → List Nat × List Nat → List Nat × List Nat
  | _, [], p => p
  | i, v :: vs, p =>
    placeSymbols (i + 1) vs (p.1.set (p.2.getD v.toNat 0) i, bumpCounter p.2 v)

/-- The whole counting sort (41_bwt R123): `next` and the counters it leaves. The entries `next`
starts with are all overwritten (log 10). -/
def countingSort (t : List Byte) : List Nat × List Nat :=
  placeSymbols 0 t (List.replicate t.length 0, startRanks 0 (countSymbols t))

/-- Succ(t), the successor array (41_bwt R123). -/
def successors (t : List Byte) : List Nat := (countingSort t).1

/-- The walk: `k` steps from `pos`, emitting t[pos] and going on at next[pos] (41_bwt R124). -/
def walk (next : List Nat) (t : List Byte) : Nat → Nat → List Byte
  | 0, _ => []
  | k + 1, pos => t.getD pos 0#8 :: walk next t k (next.getD pos 0)

/-- Inv(r, t): exactly n steps from next[r] (41_bwt R124, R126). -/
def inverseBwt (r : Nat) (t : List Byte) : List Byte :=
  walk (successors t) t t.length ((successors t).getD r 0)

/-- What BWTE commits: ORD, ORIGIN and the output that `out` makes of the rank and the transform
(41_bwt R121). -/
def commitBwte (out : Word → List Byte → List Byte) (b : List Byte) (s : State) : State :=
  let r := BitVec.ofNat 32 (originRank b)
  putOutput (out r (transform b)) (putOrigin r (putOrder (sortOrder b) s))

/-- BWTE with S = 0: the transform alone (41_bwt R121). -/
def execBwte (s : State) : Result :=
  runCommand (readBlock s) (commitBwte fun _ t => t) s

/-- BWTE with S = 1: the four header bytes, then the transform (41_bwt R121; 20_memory R62). -/
def execBwteS (s : State) : Result :=
  runCommand (readBlock s) (commitBwte fun r t => headerBytes r ++ t) s

/-- `if n >= 1 and r >= n then raise Error(4 ORIGIN_RANGE, info = r, pos = 0)` (41_bwt R125). -/
def checkOrigin (n : Nat) (r : Word) : Check Unit :=
  raiseIf (1 ≤ n && decide (n ≤ r.toNat)) .originRange r 0#32

/-- The check phase of BWTD with S = 0 (41_bwt R125): LEN, ORIGIN, then the read. -/
def checkBwtd (s : State) : Check (List Byte) :=
  (checkLen s.nmax s).bind fun _ =>
  (checkOrigin s.len.toNat s.origin).bind fun _ =>
  readInput 0 s.len.toNat s

/-- The check phase of BWTD with S = 1 (41_bwt R125): LEN, the header's length, the header, its rank,
then the rest. It yields the rank and the transform. -/
def checkBwtdS (s : State) : Check (Word × List Byte) :=
  (checkLen (s.nmax + 4) s).bind fun _ =>
  (raiseIf (s.len.toNat < 4) .hdrShort s.len 0#32).bind fun _ =>
  (readInput 0 4 s).bind fun h =>
  (checkOrigin (s.len.toNat - 4) (headerRank h)).bind fun _ =>
  (readInput 4 (s.len.toNat - 4) s).bind fun t => .ok (headerRank h, t)

/-- What both forms of BWTD commit (41_bwt R125): for n >= 1 ORD, OBUF and the counters of the
counting sort (10_state R47), and OLEN in any case. -/
def commitBwtd (r : Word) (t : List Byte) (s : State) : State :=
  if t.length = 0 then putOutput [] s
  else
    putOutput (inverseBwt r.toNat t)
      (putOrder (successors t) (putCounters (countingSort t).2 s))

/-- BWTD with S = 0 (41_bwt R125). -/
def execBwtd (s : State) : Result :=
  runCommand (checkBwtd s) (fun t => commitBwtd s.origin t) s

/-- BWTD with S = 1, which also writes the header's rank to ORIGIN (41_bwt R125). -/
def execBwtdS (s : State) : Result :=
  runCommand (checkBwtdS s) (fun p s => putOrigin p.1 (commitBwtd p.1 p.2 s)) s

end Sys2Proof.Machine
end

