-- ==== Sys2Proof/Machine/Control.lean ====
section
/-! DEFINITION. The control commands NOP and MOVE (43_control). -/

namespace Sys2Proof.Machine

/-- NOP (43_control R160): completes. -/
def execNop (s : State) : Result := runCommand (.ok ()) (fun _ s => s) s

/-- MOVE (43_control R161): OBUF[0..OLEN-1] into IBUF, OLEN into LEN. -/
def execMove (s : State) : Result :=
  runCommand (memRead .obuf s.obuf 0 s.olen.toNat) putInput s

end Sys2Proof.Machine
end

