-- ==== Sys2Proof/Machine/Mtf.lean ====
section
/-! DEFINITION. The Move-to-Front unit: the recency list and the commands MTFE, MTFD (fresh and
continued) and MTFI (42_mtf). -/

namespace Sys2Proof.Machine

/-- mtf(L, k): the symbol of rank `k` to the front (42_mtf R141). A rank past the end, which no
command has while LST is a permutation of its ALPHA symbols, moves nothing (log 10). -/
def moveToFront (l : List Byte) (k : Nat) : List Byte :=
  match l[k]? with
  | some x => x :: (l.take k ++ l.drop (k + 1))
  | none => l

/-- The encoder's loop (42_mtf R142): the ranks and the final list. -/
def mtfEncode : List Byte → List Byte → List Byte × List Byte
  | l, [] => ([], l)
  | l, x :: xs =>
    let k := l.idxOf x
    let rest := mtfEncode (moveToFront l k) xs
    (BitVec.ofNat 8 k :: rest.1, rest.2)

/-- The decoder's loop (42_mtf R143): the symbols and the final list. -/
def mtfDecode : List Byte → List Byte → List Byte × List Byte
  | l, [] => ([], l)
  | l, k :: ks =>
    let rest := mtfDecode (moveToFront l k.toNat) ks
    (l.getD k.toNat 0#8 :: rest.1, rest.2)

/-- The check of every byte against ALPHA, from index `i` on: the first offender is the error
(42_mtf R142, R143; 60_exceptions R173). -/
def checkBytes (alpha : Nat) (code : ErrCode) : Nat → List Byte → Check Unit
  | _, [] => .ok ()
  | i, x :: xs =>
    if alpha ≤ x.toNat then .raise code (x.setWidth 32) (BitVec.ofNat 32 i)
    else checkBytes alpha code (i + 1) xs

/-- The check phase of MTFE and MTFD: LEN, the read, every byte. -/
def checkMtf (code : ErrCode) (s : State) : Check (List Byte) :=
  (readStream s).bind fun x =>
  (checkBytes s.alpha.toNat code 0 x).bind fun _ => .ok x

/-- What MTFE and MTFD commit: the output and the final list (42_mtf R142, R143). -/
def commitMtf (p : List Byte × List Byte) (s : State) : State := putList p.2 (putOutput p.1 s)

/-- MTFE with C = 0, from the identity list (42_mtf R140, R142). -/
def execMtfe (s : State) : Result :=
  runCommand (checkMtf .symbolRange s)
    (fun x => commitMtf (mtfEncode (identityList s.alpha.toNat) x)) s

/-- MTFE with C = 1, from LST as it stands (42_mtf R140, R142). -/
def execMtfeC (s : State) : Result :=
  runCommand (checkMtf .symbolRange s) (fun x => commitMtf (mtfEncode s.lst x)) s

/-- MTFD with C = 0, from the identity list (42_mtf R140, R143). -/
def execMtfd (s : State) : Result :=
  runCommand (checkMtf .rankRange s)
    (fun x => commitMtf (mtfDecode (identityList s.alpha.toNat) x)) s

/-- MTFD with C = 1, from LST as it stands (42_mtf R140, R143). -/
def execMtfdC (s : State) : Result :=
  runCommand (checkMtf .rankRange s) (fun x => commitMtf (mtfDecode s.lst x)) s

/-- MTFI (42_mtf R144). -/
def execMtfi (s : State) : Result :=
  runCommand (.ok ()) (fun _ => putList (identityList s.alpha.toNat)) s

end Sys2Proof.Machine
end

