-- ==== Sys2Proof/Machine/Dispatch.lean ====
section
/-! DEFINITION. The completion of each legal command, one arm a constructor (60_exceptions R174). -/

namespace Sys2Proof.Machine

def exec (i : Instr) (s : State) : Host.Outcome State Fault Refusal :=
  match i with
  | .nop => Sys2Proof.Machine.execNop s
  | .sort => Sys2Proof.Machine.execSort s
  | .cmpr => Sys2Proof.Machine.execCmpr s
  | .bwte => Sys2Proof.Machine.execBwte s
  | .bwteS => Sys2Proof.Machine.execBwteS s
  | .bwtd => Sys2Proof.Machine.execBwtd s
  | .bwtdS => Sys2Proof.Machine.execBwtdS s
  | .mtfe => Sys2Proof.Machine.execMtfe s
  | .mtfeC => Sys2Proof.Machine.execMtfeC s
  | .mtfd => Sys2Proof.Machine.execMtfd s
  | .mtfdC => Sys2Proof.Machine.execMtfdC s
  | .mtfi => Sys2Proof.Machine.execMtfi s
  | .move => Sys2Proof.Machine.execMove s

end Sys2Proof.Machine
end

