-- ==== Sys2Proof/Machine/Engine.lean ====
section
/-! DEFINITION. The engine's turn: the completion of the command in flight. -/

namespace Sys2Proof.Machine

/-- The engine's turn (60_exceptions R174): it completes the command in flight. When none is, nothing
happens (log 17). -/
def engineStep (s : State) : Host.Outcome State Fault Refusal :=
  if s.status.busy then
    match fetch s with
    | .legal i => exec i s
    | .illegal _ => .next (completeIllegal s)
  else .next s

end Sys2Proof.Machine
end

