-- ==== Sys2Proof/Machine/Flags.lean ====
section
/-! DEFINITION. STATUS and CONFIG as the host sees and writes them, and the interrupt output. -/

namespace Sys2Proof.Machine

/-- STATUS as a word (10_state R25): BUSY, DONE, ERR, HAZ in bits 0..3, ERRCODE in bits 11:8, the
reserved bits 0. -/
def Status.toWord (st : Status) : Word :=
  0#20 ++ st.errcode ++ 0#4 ++ BitVec.ofBool st.haz ++ BitVec.ofBool st.err
    ++ BitVec.ofBool st.done ++ BitVec.ofBool st.busy

/-- A host write of STATUS (10_state R25 to R29): a 1 in bit 1 clears DONE, in bit 2 ERR with
ERRCODE, in bit 3 HAZ; every other bit of the data is ignored. -/
def Status.writeOneToClear (data : Word) (st : Status) : Status :=
  let st := if data.getLsbD 1 then { st with done := false } else st
  let st := if data.getLsbD 2 then acknowledgeError st else st
  if data.getLsbD 3 then { st with haz := false } else st

/-- CONFIG as a word (10_state R30): IE in bit 0, the reserved bits 0. -/
def configWord (ie : Bool) : Word := BitVec.setWidth 32 (BitVec.ofBool ie)

/-- The interrupt output, irq = DONE AND IE (10_state R50; 60_exceptions R178). -/
def State.irq (s : State) : Bool := s.status.done && s.ie

end Sys2Proof.Machine
end

