-- ==== Sys2Proof/Machine/HostPort.lean ====
section
/-! DEFINITION. Host transactions: the address map, reads, writes, and what a busy engine does with
them (20_memory; 10_state R22 to R30; 70_reset R194, R195). -/

namespace Sys2Proof.Machine

/-- The space of a space number; 5, 6 and 7 are unmapped (20_memory R61). -/
def Space.ofNumber (n : BitVec 3) : Option Space :=
  match n.toNat with
  | 0 => some .csr
  | 1 => some .ibuf
  | 2 => some .obuf
  | 3 => some .ord
  | 4 => some .lst
  | _ => none

/-- The register of a CSR index (10_state R22). -/
def Csr.ofIndex (i : Nat) : Option Csr :=
  match i with
  | 0 => some .cmd
  | 1 => some .status
  | 2 => some .config
  | 3 => some .len
  | 4 => some .origin
  | 5 => some .arg0
  | 6 => some .arg1
  | 7 => some .result
  | 8 => some .olen
  | 9 => some .errinfo
  | 10 => some .errpos
  | 11 => some .cap
  | 12 => some .alpha
  | 13 => some .id
  | _ => none

/-- How many elements a space has (20_memory R61). -/
def Space.size (s : State) : Space → Nat
  | .csr => 14
  | .ibuf => s.bufsz
  | .obuf => s.bufsz
  | .ord => s.nmax
  | .lst => s.alpha.toNat

/-- The value of a control and status register (10_state R22 to R41). -/
def csrRead (s : State) : Csr → Word
  | .cmd => s.cmd
  | .status => s.status.toWord
  | .config => configWord s.ie
  | .len => s.len
  | .origin => s.origin
  | .arg0 => s.arg0
  | .arg1 => s.arg1
  | .result => s.result
  | .olen => s.olen
  | .errinfo => s.errinfo
  | .errpos => s.errpos
  | .cap => s.cap
  | .alpha => s.alpha
  | .id => Config.idWord

/-- The registers whose reads are fixed while BUSY = 1 (70_reset R195). -/
def Csr.fixedWhileBusy : Csr → Bool
  | .status | .config | .cmd | .arg0 | .arg1 | .cap | .alpha | .id => true
  | .len | .origin | .result | .olen | .errinfo | .errpos => false

/-- The answer to a read of an element that may be unwritten (70_reset R193). -/
def answerElement {n : Nat} (space : Space) (index : Nat) (v : Option (BitVec n)) (s : State) :
    Result :=
  match v with
  | some x => .next { s with port := .data (x.setWidth 32) }
  | none => .fault (.unwritten space index)

/-- A host write that only an idle engine takes; a busy one drops it and sets HAZ
(70_reset R194). -/
def writeIfIdle (f : State → State) (s : State) : State :=
  if s.status.busy then dropWrite s else f s

/-- A host write of a control and status register (10_state R22 to R30). A read-only register takes
no effect (R23). -/
def csrWrite (r : Csr) (data : Word) (s : State) : State :=
  match r with
  | .cmd => writeIfIdle (issue data) s
  | .status => { s with status := s.status.writeOneToClear data }
  | .config => { s with ie := data.getLsbD 0 }
  | .len => writeIfIdle (fun s => { s with len := data }) s
  | .origin => writeIfIdle (fun s => { s with origin := data }) s
  | .arg0 => writeIfIdle (fun s => { s with arg0 := data }) s
  | .arg1 => writeIfIdle (fun s => { s with arg1 := data }) s
  | .result | .olen | .errinfo | .errpos | .cap | .alpha | .id => s

/-- A host read of CSR index `i`, in range. -/
def readCsr (i : Nat) (s : State) : Result :=
  match Csr.ofIndex i with
  | some r =>
    if s.status.busy && !r.fixedWhileBusy then .fault (.busyRead .csr i)
    else .next { s with port := .data (csrRead s r) }
  | none => .fault (.decerr 0#3 (BitVec.ofNat 32 i))

/-- A host read of element `i` of a mapped space, in range (20_memory R61, R67; 70_reset R193, R195).
While busy no buffer element may be read; that comes before its being unwritten (log 8). -/
def hostReadAt (space : Space) (i : Nat) (s : State) : Result :=
  match space with
  | .csr => readCsr i s
  | .ibuf =>
    if s.status.busy then .fault (.busyRead .ibuf i)
    else answerElement .ibuf i (Memory.read s.ibuf i) s
  | .obuf =>
    if s.status.busy then .fault (.busyRead .obuf i)
    else answerElement .obuf i (Memory.read s.obuf i) s
  | .ord =>
    if s.status.busy then .fault (.busyRead .ord i)
    else answerElement .ord i (Memory.read s.ord i) s
  | .lst =>
    if s.status.busy then .fault (.busyRead .lst i)
    else answerElement .lst i s.lst[i]? s

/-- A host write of element `i` of a mapped space, in range. A byte space takes bits 7:0 of the data
(log 9); OBUF, ORD and LST take nothing (20_memory R66). -/
def hostWriteAt (space : Space) (i : Nat) (data : Word) (s : State) : State :=
  match space with
  | .csr =>
    match Csr.ofIndex i with
    | some r => csrWrite r data s
    | none => s
  | .ibuf =>
    writeIfIdle (fun s => { s with ibuf := Memory.write s.ibuf i (data.setWidth 8) }) s
  | .obuf | .ord | .lst => s

/-- The mapped space a transaction reaches, if its index is in range (20_memory R61, R65). -/
def reach (space : BitVec 3) (index : Word) (s : State) : Option Space :=
  match Space.ofNumber space with
  | some sp => if index.toNat < sp.size s then some sp else none
  | none => none

/-- A host transaction (20_memory R60): refused with DECERR, or completed with OKAY. -/
def transact (t : Transaction) (s : State) : Result :=
  match t with
  | .read space index =>
    match reach space index s with
    | some sp => hostReadAt sp index.toNat s
    | none => .fault (.decerr space index)
  | .write space index data =>
    match reach space index s with
    | some sp => .next { hostWriteAt sp index.toNat data s with port := .okay }
    | none => .fault (.decerr space index)

end Sys2Proof.Machine
end

