-- ==== Sys2Proof/Machine/Step.lean ====
section
/-! DEFINITION. One step: an engine completion, a host transaction or a reset, whichever has its turn
(20_memory R70). -/

namespace Sys2Proof.Machine

/-- One step of the system: the first of `moves` has its turn and leaves the list. With no moves
listed the outside world is silent and every turn is the engine's (70_reset R196; log 2). -/
def step (s : State) : Host.Outcome State Fault Refusal :=
  match s.moves with
  | [] => engineStep s
  | .engine :: rest => engineStep { s with moves := rest }
  | .host t :: rest => transact t { s with moves := rest }
  | .reset :: rest => .next (resetMachine { s with moves := rest })

/-- `s` after the host has written the word to CMD of an idle engine (10_state R24), with the engine's
turn next: the very next step decodes and runs it. Bits above `nbits` are 0. DESIGN CHOICE, safe,
log 4. -/
def State.withFetchWord (s : State) (nbits w : Nat) : State :=
  issue (BitVec.ofNat 32 (w % 2 ^ nbits)) { s with moves := .engine :: s.moves }

end Sys2Proof.Machine
end

