-- ==== Sys2Proof/Safety.lean ====
section
/-! DEFINITION. The terms claims use: what storage holds, which outcomes an error has, the invariant of
the machine, and a safe run. -/

namespace Sys2Proof.Machine

/-- The elements of `vs` stand in the storage from index `a` on. -/
abbrev Memory.holds {α : Type} (m : List (Nat × α)) (a : Nat) (vs : List α) : Prop :=
  ∀ i : Nat, i < vs.length → Memory.read m (a + i) = vs[i]?

/-- Every written element has an index below `bound`. -/
abbrev Memory.below {α : Type} (m : List (Nat × α)) (bound : Nat) : Prop :=
  ∀ p ∈ m, p.1 < bound

/-- `i` is the lowest unwritten index of the `n` elements from `a` on (log 7). -/
def Memory.firstUnwritten {α : Type} (m : List (Nat × α)) (a n i : Nat) : Prop :=
  a ≤ i ∧ i < a + n ∧ Memory.read m i = none ∧ ∀ j, a ≤ j → j < i → Memory.read m j ≠ none

/-- IBUF[0..n-1] with n = LEN is the byte sequence `b` (00_scope, glossary: Block). -/
abbrev State.inputIs (s : State) (b : List Byte) : Prop :=
  b.length = s.len.toNat ∧ Memory.holds s.ibuf 0 b

/-- STATUS after a completion without error: BUSY <- 0, DONE <- 1 (60_exceptions R174). -/
def State.statusDone (s : State) : Status := { s.status with busy := false, done := true }

/-- The outcome of a command that ends in an error: only STATUS, ERRINFO and ERRPOS change
(60_exceptions R171, R174). -/
def State.errorOutcome (s : State) (code : BitVec 4) (info pos : Word) : Result :=
  .next { s with
    status := { busy := false, done := true, err := true, haz := s.status.haz, errcode := code }
    errinfo := info
    errpos := pos }

/-- The invariant of the machine. -/
structure State.Inv (s : State) : Prop where
  /-- 1 <= NMAX <= 2^31 (00_scope R7). -/
  capRange : 1 ≤ s.nmax ∧ s.nmax ≤ 2 ^ 31
  /-- ALPHA in 1..256 (00_scope R9). -/
  alphaRange : 1 ≤ s.alpha.toNat ∧ s.alpha.toNat ≤ 256
  /-- The buffers are in canonical form and inside the address map (20_memory R61). -/
  ibufForm : Memory.wf s.ibuf ∧ Memory.below s.ibuf s.bufsz
  obufForm : Memory.wf s.obuf ∧ Memory.below s.obuf s.bufsz
  ordForm : Memory.wf s.ord ∧ Memory.below s.ord s.nmax
  /-- LST is a permutation of 0..ALPHA-1 (10_state R46). -/
  lstPerm : s.lst.Perm (identityList s.alpha.toNat)
  /-- CNT has 256 counters (10_state R47). -/
  cntSize : s.cnt.length = 256
  /-- OLEN <= BUFSZ (10_state R36). -/
  olenRange : s.olen.toNat ≤ s.bufsz
  /-- Every OBUF element below OLEN is written (43_control R161). -/
  outputWritten : ∀ a, a < s.olen.toNat → Memory.read s.obuf a ≠ none
  /-- ERRCODE = 0 if and only if ERR = 0 (10_state R28). -/
  errcodeIff : s.status.errcode = 0#4 ↔ s.status.err = false
  /-- Codes 8..15 are never produced (60_exceptions R172). -/
  errcodeLegal : s.status.errcode.toNat ≤ 7
  /-- From issue to completion DONE, ERR, ERRINFO and ERRPOS stay as issue left them
  (10_state R24, R27, R28). -/
  busyClear : s.status.busy = true →
    s.status.done = false ∧ s.status.err = false ∧ s.errinfo = 0#32 ∧ s.errpos = 0#32
  /-- RESULT has one of its three values (10_state R35). -/
  resultLegal : s.result = 0xFFFFFFFF#32 ∨ s.result = 0#32 ∨ s.result = 1#32

/-- A run of `k` steps that meets no model fault (60_exceptions R181). -/
def State.safeFor (s : State) (k : Nat) : Prop := ∃ t, Host.Core.run core k s = .next t

end Sys2Proof.Machine
end

