-- ==== Sys2Proof/Certificates/Slice0/Obligations.lean ====
section
/-! DEFINITION. The statements for the provers, from the numbered rules of spec/. -/

open Sys2Proof Sys2Proof.Machine

/-! ## Encoding -/

/-- A word of every family, written out from 30_encoding R84, decodes to its command. -/
def Obligations.SpecWordsDecodeToTheirCommands : Prop :=
  decode 0x00000000#32 = .legal .nop ∧ decode 0x00000001#32 = .legal .sort ∧
  decode 0x00000002#32 = .legal .cmpr ∧ decode 0x00000003#32 = .legal .bwte ∧
  decode 0x00000023#32 = .legal .bwteS ∧ decode 0x00000004#32 = .legal .bwtd ∧
  decode 0x00000024#32 = .legal .bwtdS ∧ decode 0x00000005#32 = .legal .mtfe ∧
  decode 0x00000015#32 = .legal .mtfeC ∧ decode 0x00000006#32 = .legal .mtfd ∧
  decode 0x00000016#32 = .legal .mtfdC ∧ decode 0x00000007#32 = .legal .mtfi ∧
  decode 0x00000008#32 = .legal .move

/-- Decoding the encoding of a command gives the command back. -/
def Obligations.DecodeOfEncodeIsTheCommand : Prop := ∀ i : Instr, decode (encode i) = .legal i

/-- R84: the legal words are exactly the 13 of the table, each for its command. -/
def Obligations.LegalWordsAreExactlyTheThirteen : Prop :=
  ∀ (w : Word) (i : Instr), decode w = .legal i ↔
    (w, i) ∈ [(0x00000000#32, Instr.nop), (0x00000001#32, .sort), (0x00000002#32, .cmpr),
      (0x00000003#32, .bwte), (0x00000023#32, .bwteS), (0x00000004#32, .bwtd),
      (0x00000024#32, .bwtdS), (0x00000005#32, .mtfe), (0x00000015#32, .mtfeC),
      (0x00000006#32, .mtfd), (0x00000016#32, .mtfdC), (0x00000007#32, .mtfi),
      (0x00000008#32, .move)]

/-- R87: a word is illegal exactly when a reserved bit is set, OP is 9..15, or a flag is set on a
command that does not take it. -/
def Obligations.IllegalWordsAreThoseOfTheReservedSpace : Prop :=
  ∀ w : Word, (∃ why, decode w = .illegal why) ↔
    (64 ≤ w.toNat ∨ 9 ≤ w.toNat % 16 ∨
      (w.getLsbD 4 = true ∧ w.toNat % 16 ≠ 5 ∧ w.toNat % 16 ≠ 6) ∨
      (w.getLsbD 5 = true ∧ w.toNat % 16 ≠ 3 ∧ w.toNat % 16 ≠ 4))

/-! ## The step -/

/-- On the engine's turn a busy engine runs the command that CMD decodes to. -/
def Obligations.StepRunsTheDecodedCommand : Prop :=
  ∀ (s : State) (i : Instr) (rest : List Move),
    s.status.busy = true → decode s.cmd = .legal i →
    (s.moves = [] → step s = exec i s) ∧
    (s.moves = .engine :: rest → step s = exec i { s with moves := rest })

/-- On the engine's turn an idle engine does nothing (the model's choice, log 17). -/
def Obligations.IdleEngineTurnChangesNothing : Prop :=
  ∀ (s : State) (rest : List Move), s.status.busy = false →
    (s.moves = [] → step s = .next s) ∧
    (s.moves = .engine :: rest → step s = .next { s with moves := rest })

/-- R86: an illegal word written to CMD of an idle engine is issued, and its completion reports code
1 with the word in ERRINFO and 0 in ERRPOS, and changes nothing else: first for the engine's turn right
after the write, then for every later one, whatever the host did in between. (Whose turn it is stands in
`moves`, log 2.) -/
def Obligations.IllegalWordIsIssuedAndReported : Prop :=
  (∀ (s : State) (w : Word) (why : Illegal) (rest : List Move),
    s.status.busy = false → decode w = .illegal why →
    s.moves = .host (.write 0#3 0#32 w) :: .engine :: rest →
    ∃ t, step s = .next t ∧
      t = { s with
        cmd := w
        status := ⟨true, false, false, s.status.haz, 0#4⟩
        errinfo := 0#32
        errpos := 0#32
        moves := .engine :: rest
        port := .okay } ∧
      step t = .next { t with
        status := ⟨false, true, true, s.status.haz, 1#4⟩
        errinfo := w
        errpos := 0#32
        moves := rest }) ∧
  ∀ (s : State) (why : Illegal) (rest : List Move),
    s.status.busy = true → decode s.cmd = .illegal why →
    (s.moves = [] → step s = s.errorOutcome 1#4 s.cmd 0#32) ∧
    (s.moves = .engine :: rest →
      step s = State.errorOutcome { s with moves := rest } 1#4 s.cmd 0#32)

/-! ## Control commands -/

/-- R160: NOP completes and does nothing else; from reset it ends with STATUS = 2. -/
def Obligations.NopOnlyCompletes : Prop :=
  decode 0x00000000#32 = .legal .nop ∧
  (∀ s : State, exec .nop s =
    .next { s with status := { s.status with busy := false, done := true } }) ∧
  ∃ t, Host.Core.run core 2
      { State.reset with moves := [.host (.write 0#3 0#32 0x00000000#32), .engine] } = .next t ∧
    t.status.toWord = 0x00000002#32

/-- R161: MOVE copies OBUF[0..OLEN-1] into IBUF and OLEN into LEN, and nothing else. In every state of
the invariant it meets no fault and no error, and moving twice is the same as once. -/
def Obligations.MoveCopiesOutputToInput : Prop :=
  decode 0x00000008#32 = .legal .move ∧
  (∀ (s : State) (v : List Byte), v.length = s.olen.toNat → Memory.holds s.obuf 0 v →
    ∃ t, exec .move s = .next t ∧
      t = { s with ibuf := t.ibuf, len := s.olen, status := s.statusDone } ∧
      Memory.holds t.ibuf 0 v ∧
      ∀ a, v.length ≤ a → Memory.read t.ibuf a = Memory.read s.ibuf a) ∧
  ∀ s : State, s.Inv →
    ∃ t, exec .move s = .next t ∧ t.status = s.statusDone ∧ exec .move t = .next t

/-! ## The suffix sorter -/

/-- R101: the comparator is the lexicographic order of the rotations as byte strings, unsigned. -/
def Obligations.ComparatorIsRotationOrder : Prop :=
  ∀ (b : List Byte) (i j : Nat),
    (cmpRot b i j = .lt ↔ rotationOf b i < rotationOf b j) ∧
    (cmpRot b i j = .eq ↔ rotationOf b i = rotationOf b j) ∧
    (cmpRot b i j = .gt ↔ rotationOf b j < rotationOf b i)

/-- R100: Rotation(i) is the length-n sequence whose k-th byte is b[(i+k) mod n]. -/
def Obligations.RotationIsTheCyclicString : Prop :=
  ∀ (b : List Byte) (i : Nat), i < b.length →
    (rotationOf b i).length = b.length ∧
    (∀ k, k < b.length → (rotationOf b i)[k]? = b[(i + k) % b.length]?) ∧
    rotationOf b i = b.drop i ++ b.take i

/-- R102: SortOrder is the one permutation of 0..n-1 that is ascending by rotation, equal rotations
by start index. -/
def Obligations.SortOrderIsTheUniqueSortedPermutation : Prop :=
  ∀ (b : List Byte) (l : List Nat), l = sortOrder b ↔
    (l.Perm (List.range b.length) ∧
      l.Pairwise fun i j =>
        rotationOf b i < rotationOf b j ∨ (rotationOf b i = rotationOf b j ∧ i < j))

/-- CMPR (R103): its result and every error of it, in the order of its checks. That the fault names the
lowest unwritten element is the model's choice (log 7). -/
def Obligations.CmprComparesTwoRotations : Prop :=
  decode 0x00000002#32 = .legal .cmpr ∧
  ∀ s : State,
    (s.nmax < s.len.toNat → exec .cmpr s = s.errorOutcome 2#4 s.len 0#32) ∧
    (s.len.toNat ≤ s.nmax → s.len.toNat ≤ s.arg0.toNat →
      exec .cmpr s = s.errorOutcome 5#4 s.arg0 0#32) ∧
    (s.len.toNat ≤ s.nmax → s.arg0.toNat < s.len.toNat → s.len.toNat ≤ s.arg1.toNat →
      exec .cmpr s = s.errorOutcome 5#4 s.arg1 1#32) ∧
    (s.len.toNat ≤ s.nmax → s.arg0.toNat < s.len.toNat → s.arg1.toNat < s.len.toNat →
      (∀ i, Memory.firstUnwritten s.ibuf 0 s.len.toNat i →
        exec .cmpr s = .fault (.unwritten .ibuf i)) ∧
      ∀ b, s.inputIs b →
        ∃ t, exec .cmpr s = .next t ∧
          t = { s with result := t.result, status := s.statusDone } ∧
          (rotationOf b s.arg0.toNat < rotationOf b s.arg1.toNat → t.result = 0xFFFFFFFF#32) ∧
          (rotationOf b s.arg0.toNat = rotationOf b s.arg1.toNat → t.result = 0x00000000#32) ∧
          (rotationOf b s.arg1.toNat < rotationOf b s.arg0.toNat → t.result = 0x00000001#32))

/-- SORT (R104) writes the order to ORD[0..n-1] and nothing else; its only error is LEN_RANGE. That the
fault names the lowest unwritten element is the model's choice (log 7). -/
def Obligations.SortWritesTheOrder : Prop :=
  decode 0x00000001#32 = .legal .sort ∧
  ∀ s : State,
    (s.nmax < s.len.toNat → exec .sort s = s.errorOutcome 2#4 s.len 0#32) ∧
    (s.len.toNat ≤ s.nmax →
      (∀ i, Memory.firstUnwritten s.ibuf 0 s.len.toNat i →
        exec .sort s = .fault (.unwritten .ibuf i)) ∧
      ∀ b, s.inputIs b →
        ∃ t, exec .sort s = .next t ∧
          t = { s with ord := t.ord, status := s.statusDone } ∧
          Memory.holds t.ord 0 ((sortOrder b).map (BitVec.ofNat 32)) ∧
          ∀ a, b.length ≤ a → Memory.read t.ord a = Memory.read s.ord a)

/-- R105: after a successful SORT or BWTE, ORD[0..n-1] holds each of 0..n-1 exactly once. -/
def Obligations.OrdIsAPermutationAfterSorting : Prop :=
  ∀ (i : Instr) (s t : State), i ∈ [Instr.sort, .bwte, .bwteS] → s.len.toNat ≤ s.nmax →
    exec i s = .next t →
    ∀ v, v < s.len.toNat →
      ∃ k, (k < s.len.toNat ∧ Memory.read t.ord k = some (BitVec.ofNat 32 v)) ∧
        ∀ k', k' < s.len.toNat → Memory.read t.ord k' = some (BitVec.ofNat 32 v) → k' = k

/-- R106: every order that is ascending by rotation, whatever its tie-break, gives the same
transform; with the tie-break of R102 rotation 0 is first among those equal to it. -/
def Obligations.TransformIsTheSameUnderEveryTieBreak : Prop :=
  ∀ b : List Byte,
    (∀ l : List Nat, l.Perm (List.range b.length) →
      l.Pairwise (fun i j => ¬ rotationOf b j < rotationOf b i) →
      l.map (fun o => b.getD ((o + b.length - 1) % b.length) 0#8) = transform b) ∧
    ∀ k o, k < originRank b → (sortOrder b)[k]? = some o → rotationOf b o ≠ rotationOf b 0

/-! ## The BWT mapper -/

/-- R120: the origin rank is the one rank of rotation 0, the transform the last column; both for the
empty block as documented. -/
def Obligations.OriginRankAndTransformAreTheBwtPair : Prop :=
  (∀ b : List Byte, 1 ≤ b.length →
    (∀ r, (sortOrder b)[r]? = some 0 ↔ r = originRank b) ∧ originRank b < b.length ∧
    (transform b).length = b.length ∧
    ∀ i o : Nat, (sortOrder b)[i]? = some o →
      (transform b)[i]? = b[(o + b.length - 1) % b.length]?) ∧
  transform [] = [] ∧ originRank [] = 0

/-- Both forms of BWTE (R121), with their one error. That the fault names the lowest unwritten element is
the model's choice (log 7). -/
def Obligations.BwteWritesTheTransform : Prop :=
  decode 0x00000003#32 = .legal .bwte ∧ decode 0x00000023#32 = .legal .bwteS ∧
  ∀ s : State,
    (s.nmax < s.len.toNat →
      exec .bwte s = s.errorOutcome 2#4 s.len 0#32 ∧
      exec .bwteS s = s.errorOutcome 2#4 s.len 0#32) ∧
    (s.len.toNat ≤ s.nmax →
      (∀ i, Memory.firstUnwritten s.ibuf 0 s.len.toNat i →
        exec .bwte s = .fault (.unwritten .ibuf i) ∧
        exec .bwteS s = .fault (.unwritten .ibuf i)) ∧
      ∀ b, s.inputIs b →
        (∃ t, exec .bwte s = .next t ∧
          t = { s with
            ord := t.ord, obuf := t.obuf, origin := BitVec.ofNat 32 (originRank b), olen := s.len
            status := s.statusDone } ∧
          Memory.holds t.ord 0 ((sortOrder b).map (BitVec.ofNat 32)) ∧
          (∀ a, b.length ≤ a → Memory.read t.ord a = Memory.read s.ord a) ∧
          Memory.holds t.obuf 0 (transform b) ∧
          ∀ a, b.length ≤ a → Memory.read t.obuf a = Memory.read s.obuf a) ∧
        ∃ t, exec .bwteS s = .next t ∧
          t = { s with
            ord := t.ord, obuf := t.obuf, origin := BitVec.ofNat 32 (originRank b)
            olen := s.len + 4#32, status := s.statusDone } ∧
          Memory.holds t.ord 0 ((sortOrder b).map (BitVec.ofNat 32)) ∧
          (∀ a, b.length ≤ a → Memory.read t.ord a = Memory.read s.ord a) ∧
          (∀ k, k < 4 → Memory.read t.obuf k =
            some (BitVec.ofNat 8 (t.origin.toNat / 2 ^ (8 * (3 - k))))) ∧
          Memory.holds t.obuf 4 (transform b) ∧
          ∀ a, b.length + 4 ≤ a → Memory.read t.obuf a = Memory.read s.obuf a)

/-- R122: the transform is a permutation of the block. -/
def Obligations.TransformPermutesTheBlock : Prop :=
  ∀ (b : List Byte) (v : Byte), (transform b).count v = b.count v

/-- R123: the successor array is the permutation of 0..n-1 that sorts the transform stably, and the
counters end at the number of symbols up to each value. -/
def Obligations.SuccessorsSortTheTransformStably : Prop :=
  ∀ (t : List Byte) (l : List Nat),
    (l = successors t ↔
      (l.Perm (List.range t.length) ∧
        l.Pairwise fun i j =>
          t.getD i 0#8 < t.getD j 0#8 ∨ (t.getD i 0#8 = t.getD j 0#8 ∧ i < j))) ∧
    ∀ v, v < 256 → (countingSort t).2[v]? = some (t.countP fun x => decide (x.toNat ≤ v))

/-- R124: the walk emits exactly n bytes, the k-th at the (k+1)-st successor of the origin rank,
whether or not a position repeats. -/
def Obligations.InverseWalkIsCountTerminated : Prop :=
  (∀ r : Nat, inverseBwt r [] = []) ∧
  ∀ (r : Nat) (t : List Byte), r < t.length →
    (inverseBwt r t).length = t.length ∧
    ∀ k, k < t.length →
      (inverseBwt r t)[k]? = t[(fun p => (successors t).getD p 0)^[k + 1] r]? ∧
      (fun p => (successors t).getD p 0)^[k + 1] r < t.length

/-- BWTD with S = 0 (R125, R126): its result for every rank and transform, its errors in order, its
faults. That the fault names the lowest unwritten element is the model's choice (log 7), and so is that
CNT stays as it is at n = 0 (log 5). -/
def Obligations.BwtdWritesTheInverse : Prop :=
  decode 0x00000004#32 = .legal .bwtd ∧
  ∀ s : State,
    (s.nmax < s.len.toNat → exec .bwtd s = s.errorOutcome 2#4 s.len 0#32) ∧
    (s.len.toNat ≤ s.nmax → 1 ≤ s.len.toNat → s.len.toNat ≤ s.origin.toNat →
      exec .bwtd s = s.errorOutcome 4#4 s.origin 0#32) ∧
    (s.len = 0#32 →
      exec .bwtd s = .next { s with olen := 0#32, status := s.statusDone }) ∧
    (s.len.toNat ≤ s.nmax → s.origin.toNat < s.len.toNat →
      (∀ i, Memory.firstUnwritten s.ibuf 0 s.len.toNat i →
        exec .bwtd s = .fault (.unwritten .ibuf i)) ∧
      ∀ x, s.inputIs x →
        ∃ t, exec .bwtd s = .next t ∧
          t = { s with
            ord := t.ord, obuf := t.obuf, olen := s.len, cnt := t.cnt, status := s.statusDone } ∧
          Memory.holds t.ord 0 ((successors x).map (BitVec.ofNat 32)) ∧
          (∀ a, x.length ≤ a → Memory.read t.ord a = Memory.read s.ord a) ∧
          Memory.holds t.obuf 0 (inverseBwt s.origin.toNat x) ∧
          ∀ a, x.length ≤ a → Memory.read t.obuf a = Memory.read s.obuf a)

/-- BWTD with S = 1 (R125): the header is read before the origin check, its rank goes to ORIGIN, and
n = 0 succeeds whatever the header holds. That each fault names the lowest unwritten element is the
model's choice (log 7), and so is that CNT stays as it is at n = 0 (log 5). -/
def Obligations.BwtdOfAStreamReadsItsHeader : Prop :=
  decode 0x00000024#32 = .legal .bwtdS ∧
  ∀ s : State,
    (s.nmax + 4 < s.len.toNat → exec .bwtdS s = s.errorOutcome 2#4 s.len 0#32) ∧
    (s.len.toNat < 4 → exec .bwtdS s = s.errorOutcome 3#4 s.len 0#32) ∧
    (s.len.toNat ≤ s.nmax + 4 → 4 ≤ s.len.toNat →
      (∀ i, Memory.firstUnwritten s.ibuf 0 4 i →
        exec .bwtdS s = .fault (.unwritten .ibuf i)) ∧
      ∀ (b0 b1 b2 b3 : Byte) (r : Word), Memory.holds s.ibuf 0 [b0, b1, b2, b3] →
        r.toNat = b0.toNat * 2 ^ 24 + b1.toNat * 2 ^ 16 + b2.toNat * 2 ^ 8 + b3.toNat →
        (4 < s.len.toNat → s.len.toNat - 4 ≤ r.toNat →
          exec .bwtdS s = s.errorOutcome 4#4 r 0#32) ∧
        (s.len.toNat = 4 →
          exec .bwtdS s = .next { s with olen := 0#32, origin := r, status := s.statusDone }) ∧
        (r.toNat < s.len.toNat - 4 →
          (∀ i, Memory.firstUnwritten s.ibuf 4 (s.len.toNat - 4) i →
            exec .bwtdS s = .fault (.unwritten .ibuf i)) ∧
          ∀ x, x.length = s.len.toNat - 4 → Memory.holds s.ibuf 4 x →
            ∃ t, exec .bwtdS s = .next t ∧
              t = { s with
                ord := t.ord, obuf := t.obuf, olen := s.len - 4#32, origin := r, cnt := t.cnt
                status := s.statusDone } ∧
              Memory.holds t.ord 0 ((successors x).map (BitVec.ofNat 32)) ∧
              (∀ a, x.length ≤ a → Memory.read t.ord a = Memory.read s.ord a) ∧
              Memory.holds t.obuf 0 (inverseBwt r.toNat x) ∧
              ∀ a, x.length ≤ a → Memory.read t.obuf a = Memory.read s.obuf a))

/-- The inverse walk undoes the transform on every non-empty block (the core of R127). -/
def Obligations.InverseOfTransformIsTheBlock : Prop :=
  ∀ b : List Byte, 1 ≤ b.length → inverseBwt (originRank b) (transform b) = b

/-- R127: BWTE, MOVE, BWTD give the block back, in the plain and in the serialised form. -/
def Obligations.BwtRoundTripReturnsTheBlock : Prop :=
  ∀ (s : State) (b : List Byte), s.nmax ≤ 2 ^ 31 → s.len.toNat ≤ s.nmax → s.inputIs b →
    (∃ t u v, exec .bwte s = .next t ∧ exec .move t = .next u ∧ exec .bwtd u = .next v ∧
      v.status.err = s.status.err ∧ v.olen = s.len ∧ Memory.holds v.obuf 0 b) ∧
    ∃ t u v, exec .bwteS s = .next t ∧ exec .move t = .next u ∧ exec .bwtdS u = .next v ∧
      v.status.err = s.status.err ∧ v.olen = s.len ∧ Memory.holds v.obuf 0 b

/-! ## The Move-to-Front unit -/

/-- R141: move-to-front takes the symbol of rank k to the front, shifts those before it down by one,
and permutes the list. -/
def Obligations.MoveToFrontIsAPermutation : Prop :=
  ∀ (l : List Byte) (k : Nat) (x : Byte), l[k]? = some x →
    moveToFront l k = [x] ++ l.take k ++ l.drop (k + 1) ∧
    (moveToFront l k).Perm l ∧ moveToFront l 0 = l

/-- The loops of R142 and R143: on a list without repeats, the encoder emits the rank of each symbol
in the list as it then stands, the decoder the symbol of each rank, and both move it to the front. -/
def Obligations.MtfLoopsFollowTheRecencyList : Prop :=
  ∀ (l : List Byte) (x : Byte) (xs : List Byte), l.Nodup → l.length ≤ 256 →
    (∀ k, k < l.length → l[k]? = some x →
      mtfEncode l (x :: xs) =
        (BitVec.ofNat 8 k :: (mtfEncode (x :: (l.take k ++ l.drop (k + 1))) xs).1,
          (mtfEncode (x :: (l.take k ++ l.drop (k + 1))) xs).2) ∧
      mtfDecode l (BitVec.ofNat 8 k :: xs) =
        (x :: (mtfDecode (x :: (l.take k ++ l.drop (k + 1))) xs).1,
          (mtfDecode (x :: (l.take k ++ l.drop (k + 1))) xs).2)) ∧
    mtfEncode l [] = ([], l) ∧ mtfDecode l [] = ([], l)

/-- MTFE (R142) in both forms, fresh from the identity or continued from LST, with its errors and
faults in the order of its checks. `ls k` is the list before symbol `k`; that LST is a permutation of
its symbols is an invariant stated on its own (R46). That the fault names the lowest unwritten element
is the model's choice (log 7). -/
def Obligations.MtfeEncodesTheStream : Prop :=
  decode 0x00000005#32 = .legal .mtfe ∧ decode 0x00000015#32 = .legal .mtfeC ∧
  ∀ (s : State) (i : Instr) (l : List Byte),
    (i, l) ∈ [(Instr.mtfe, identityList s.alpha.toNat), (Instr.mtfeC, s.lst)] →
    (s.bufsz < s.len.toNat → exec i s = s.errorOutcome 2#4 s.len 0#32) ∧
    (s.len.toNat ≤ s.bufsz →
      (∀ k, Memory.firstUnwritten s.ibuf 0 s.len.toNat k →
        exec i s = .fault (.unwritten .ibuf k)) ∧
      ∀ x, s.inputIs x →
        (∀ k v, x[k]? = some v → s.alpha.toNat ≤ v.toNat →
          (∀ j w, j < k → x[j]? = some w → w.toNat < s.alpha.toNat) →
          exec i s = s.errorOutcome 6#4 (v.setWidth 32) (BitVec.ofNat 32 k)) ∧
        ((∀ v ∈ x, v.toNat < s.alpha.toNat) →
          ∃ t, exec i s = .next t ∧
            t = { s with
              obuf := t.obuf, olen := s.len, lst := t.lst, status := s.statusDone } ∧
            (∀ a, x.length ≤ a → Memory.read t.obuf a = Memory.read s.obuf a) ∧
            (l.Perm (identityList s.alpha.toNat) → s.alpha.toNat ≤ 256 →
              ∃ ls : Nat → List Byte, ls 0 = l ∧ ls x.length = t.lst ∧
                ∀ k v, x[k]? = some v → ∃ r, (ls k)[r]? = some v ∧
                  (∀ r', (ls k)[r']? = some v → r' = r) ∧ r < 256 ∧
                  Memory.read t.obuf k = some (BitVec.ofNat 8 r) ∧
                  ls (k + 1) = [v] ++ (ls k).take r ++ (ls k).drop (r + 1))))

/-- MTFD (R143) in both forms, with its errors and faults in the order of its checks. `ls k` is the list
before rank `k`. That the fault names the lowest unwritten element is the model's choice (log 7). -/
def Obligations.MtfdDecodesTheRanks : Prop :=
  decode 0x00000006#32 = .legal .mtfd ∧ decode 0x00000016#32 = .legal .mtfdC ∧
  ∀ (s : State) (i : Instr) (l : List Byte),
    (i, l) ∈ [(Instr.mtfd, identityList s.alpha.toNat), (Instr.mtfdC, s.lst)] →
    (s.bufsz < s.len.toNat → exec i s = s.errorOutcome 2#4 s.len 0#32) ∧
    (s.len.toNat ≤ s.bufsz →
      (∀ k, Memory.firstUnwritten s.ibuf 0 s.len.toNat k →
        exec i s = .fault (.unwritten .ibuf k)) ∧
      ∀ x, s.inputIs x →
        (∀ k v, x[k]? = some v → s.alpha.toNat ≤ v.toNat →
          (∀ j w, j < k → x[j]? = some w → w.toNat < s.alpha.toNat) →
          exec i s = s.errorOutcome 7#4 (v.setWidth 32) (BitVec.ofNat 32 k)) ∧
        ((∀ v ∈ x, v.toNat < s.alpha.toNat) →
          ∃ t, exec i s = .next t ∧
            t = { s with
              obuf := t.obuf, olen := s.len, lst := t.lst, status := s.statusDone } ∧
            (∀ a, x.length ≤ a → Memory.read t.obuf a = Memory.read s.obuf a) ∧
            (l.Perm (identityList s.alpha.toNat) → s.alpha.toNat ≤ 256 →
              ∃ ls : Nat → List Byte, ls 0 = l ∧ ls x.length = t.lst ∧
                ∀ k r, x[k]? = some r → ∃ v, (ls k)[r.toNat]? = some v ∧
                  Memory.read t.obuf k = some v ∧
                  ls (k + 1) = [v] ++ (ls k).take r.toNat ++ (ls k).drop (r.toNat + 1))))

/-- R144: MTFI sets LST to the identity and nothing else. -/
def Obligations.MtfiRestoresTheIdentityList : Prop :=
  decode 0x00000007#32 = .legal .mtfi ∧
  ∀ s : State, ∃ t, exec .mtfi s = .next t ∧
    t = { s with lst := t.lst, status := s.statusDone } ∧
    t.lst.length = s.alpha.toNat ∧
    ∀ k, k < s.alpha.toNat → t.lst[k]? = some (BitVec.ofNat 8 k)

/-- R145: decoding what was encoded from the same list gives the stream back and the same final
list, in the fresh and in the continued form. -/
def Obligations.MtfRoundTripReturnsTheStream : Prop :=
  ∀ (s : State) (x : List Byte), s.Inv → s.len.toNat ≤ s.bufsz → s.inputIs x →
    (∀ v ∈ x, v.toNat < s.alpha.toNat) →
    (∃ t u v, exec .mtfe s = .next t ∧ exec .move t = .next u ∧ exec .mtfd u = .next v ∧
      v.olen = s.len ∧ Memory.holds v.obuf 0 x ∧ v.lst = t.lst) ∧
    ∃ t u v, exec .mtfeC s = .next t ∧ exec .move t = .next u ∧
      exec .mtfdC { u with lst := s.lst } = .next v ∧
      v.olen = s.len ∧ Memory.holds v.obuf 0 x ∧ v.lst = t.lst

/-- R146: a stream cut in two, the second piece continued, gives the output and the list of the whole
stream, encoding and decoding. -/
def Obligations.MtfStreamMayBeCutAnywhere : Prop :=
  ∀ (s1 s2 s3 t1 t2 t3 : State) (x z y1 y2 y3 : List Byte) (fresh cont : Instr),
    (fresh, cont) ∈ [(Instr.mtfe, Instr.mtfeC), (Instr.mtfd, Instr.mtfdC)] →
    s1.inputIs x → s2.inputIs z → s3.inputIs (x ++ z) →
    s2.alpha = s1.alpha → s3.alpha = s1.alpha →
    s1.status.err = false → s2.status.err = false → s3.status.err = false →
    exec fresh s1 = .next t1 → t1.status.err = false → s2.lst = t1.lst →
    exec cont s2 = .next t2 → t2.status.err = false →
    exec fresh s3 = .next t3 → t3.status.err = false →
    y1.length = x.length → Memory.holds t1.obuf 0 y1 →
    y2.length = z.length → Memory.holds t2.obuf 0 y2 →
    y3.length = x.length + z.length → Memory.holds t3.obuf 0 y3 →
    y3 = y1 ++ y2 ∧ t3.lst = t2.lst

/-- At ALPHA = 256 neither MTFE nor MTFD can raise SYMBOL_RANGE or RANK_RANGE: on a written stream
that fits the buffer all four forms succeed (R142, R143). -/
def Obligations.MtfIsTotalOnByteStreams : Prop :=
  ∀ (s : State) (x : List Byte) (i : Instr), s.alpha = 256#32 → s.len.toNat ≤ s.bufsz →
    s.inputIs x → i ∈ [Instr.mtfe, .mtfeC, .mtfd, .mtfdC] →
    ∃ t, exec i s = .next t ∧ t.status = s.statusDone ∧ t.olen = s.len

/-! ## Errors, whole-machine rules of the commands -/

/-- R171: a command that ends in an error changes only STATUS, ERRINFO and ERRPOS. -/
def Obligations.ErrorsChangeNothingElse : Prop :=
  ∀ (i : Instr) (s t : State), s.status.err = false → exec i s = .next t → t.status.err = true →
    t.status.errcode ≠ 0#4 ∧
    s.errorOutcome t.status.errcode t.errinfo t.errpos = .next t

/-- The error table (R172): which command can report which code, when, and with what ERRINFO and
ERRPOS. -/
def Obligations.ErrorsAreThoseOfTheTable : Prop :=
  ∀ (i : Instr) (s t : State), s.status.err = false → exec i s = .next t → t.status.err = true →
    (t.status.errcode = 2#4 ∧ t.errinfo = s.len ∧ t.errpos = 0#32 ∧
      ((i ∈ [Instr.sort, .cmpr, .bwte, .bwteS, .bwtd] ∧ s.nmax < s.len.toNat) ∨
        (i = .bwtdS ∧ s.nmax + 4 < s.len.toNat) ∨
        (i ∈ [Instr.mtfe, .mtfeC, .mtfd, .mtfdC] ∧ s.bufsz < s.len.toNat))) ∨
    (t.status.errcode = 3#4 ∧ t.errinfo = s.len ∧ t.errpos = 0#32 ∧
      i = .bwtdS ∧ s.len.toNat < 4) ∨
    (t.status.errcode = 4#4 ∧ t.errpos = 0#32 ∧
      ((i = .bwtd ∧ t.errinfo = s.origin ∧ 1 ≤ s.len.toNat ∧ s.len.toNat ≤ s.origin.toNat) ∨
        (i = .bwtdS ∧ 5 ≤ s.len.toNat ∧ s.len.toNat - 4 ≤ t.errinfo.toNat ∧
          ∃ b0 b1 b2 b3 : Byte, Memory.holds s.ibuf 0 [b0, b1, b2, b3] ∧
            t.errinfo = b0 ++ b1 ++ b2 ++ b3))) ∨
    (t.status.errcode = 5#4 ∧ i = .cmpr ∧
      ((t.errinfo = s.arg0 ∧ t.errpos = 0#32 ∧ s.len.toNat ≤ s.arg0.toNat) ∨
        (t.errinfo = s.arg1 ∧ t.errpos = 1#32 ∧ s.len.toNat ≤ s.arg1.toNat))) ∨
    (∃ (k : Nat) (v : Byte), k < s.len.toNat ∧ Memory.read s.ibuf k = some v ∧
      s.alpha.toNat ≤ v.toNat ∧ t.errinfo = v.setWidth 32 ∧ t.errpos = BitVec.ofNat 32 k ∧
      ((t.status.errcode = 6#4 ∧ i ∈ [Instr.mtfe, .mtfeC]) ∨
        (t.status.errcode = 7#4 ∧ i ∈ [Instr.mtfd, .mtfdC])))

/-- No command stops the machine but by the model fault Unwritten on an element it reads: IBUF below
LEN, or for MOVE OBUF below OLEN (R193, R181). -/
def Obligations.OnlyUnwrittenOperandsStopACommand : Prop :=
  ∀ (i : Instr) (s : State),
    (∀ f, exec i s = .fault f →
      (i ≠ .move ∧ ∃ a, f = .unwritten .ibuf a ∧ a < s.len.toNat ∧ Memory.read s.ibuf a = none) ∨
      (i = .move ∧ ∃ a, f = .unwritten .obuf a ∧ a < s.olen.toNat ∧
        Memory.read s.obuf a = none)) ∧
    ∀ r, exec i s ≠ .refused r

/-- The write columns of the access table R68: what each command leaves unchanged; with them the model's
CNT, which only BWTD rewrites (R47; DEDUCED, log 5), BUSY and DONE after a completion (R174) and HAZ,
which a completion leaves (R29). -/
def Obligations.CommandsWriteOnlyTheirColumns : Prop :=
  ∀ (i : Instr) (s t : State), exec i s = .next t →
    (i ≠ .move → t.ibuf = s.ibuf ∧ t.len = s.len) ∧
    (i ∉ [Instr.bwte, .bwteS, .bwtd, .bwtdS, .mtfe, .mtfeC, .mtfd, .mtfdC] →
      t.obuf = s.obuf ∧ t.olen = s.olen) ∧
    (i ∉ [Instr.sort, .bwte, .bwteS, .bwtd, .bwtdS] → t.ord = s.ord) ∧
    (i ∉ [Instr.mtfe, .mtfeC, .mtfd, .mtfdC, .mtfi] → t.lst = s.lst) ∧
    (i ≠ .cmpr → t.result = s.result) ∧
    (i ∉ [Instr.bwte, .bwteS, .bwtdS] → t.origin = s.origin) ∧
    (i ∉ [Instr.bwtd, .bwtdS] → t.cnt = s.cnt) ∧
    t.cmd = s.cmd ∧ t.ie = s.ie ∧ t.arg0 = s.arg0 ∧ t.arg1 = s.arg1 ∧ t.cap = s.cap ∧
    t.alpha = s.alpha ∧ t.moves = s.moves ∧ t.port = s.port ∧
    t.status.busy = false ∧ t.status.done = true ∧ t.status.haz = s.status.haz

/-- The write ranges of R68: a command that may write a buffer leaves its elements past the length it
writes, which for ORD is LEN and for BWTD with S = 1 LEN less the header's 4. -/
def Obligations.CommandsWriteOnlyTheirRanges : Prop :=
  ∀ (i : Instr) (s t : State), s.Inv → exec i s = .next t →
    ∀ a, (t.len.toNat ≤ a → Memory.read t.ibuf a = Memory.read s.ibuf a) ∧
      (s.len.toNat ≤ a → Memory.read t.ord a = Memory.read s.ord a) ∧
      (i = .bwtdS → s.len.toNat - 4 ≤ a → Memory.read t.ord a = Memory.read s.ord a) ∧
      (t.olen.toNat ≤ a → Memory.read t.obuf a = Memory.read s.obuf a)

/-- The read columns of R68, each command by its own row (LST only where C = 1, R140): two states of
one part that agree on what the command reads, whatever else they hold, fault alike, report the same
error, or succeed alike with the same values in everything the command writes. -/
def Obligations.OnlyTheOperandsMatter : Prop :=
  ∀ (i : Instr) (s s' : State), s'.cap = s.cap → s'.alpha = s.alpha →
    (i ∉ [Instr.nop, .mtfi, .move] →
      s'.len = s.len ∧ ∀ a, a < s.len.toNat → Memory.read s'.ibuf a = Memory.read s.ibuf a) →
    (i = .cmpr → s'.arg0 = s.arg0 ∧ s'.arg1 = s.arg1) →
    (i = .bwtd → s'.origin = s.origin) →
    (i ∈ [Instr.mtfeC, .mtfdC] → s'.lst = s.lst) →
    (i = .move →
      s'.olen = s.olen ∧ ∀ a, a < s.olen.toNat → Memory.read s'.obuf a = Memory.read s.obuf a) →
    (∀ f, exec i s = .fault f → exec i s' = .fault f) ∧
    ∀ t, exec i s = .next t → ∃ t', exec i s' = .next t' ∧
      ((∃ code info pos, code ≠ 0#4 ∧ s.errorOutcome code info pos = .next t ∧
          s'.errorOutcome code info pos = .next t') ∨
        (t.status = s.statusDone ∧ t.errinfo = s.errinfo ∧ t.errpos = s.errpos ∧
          t'.status = s'.statusDone ∧ t'.errinfo = s'.errinfo ∧ t'.errpos = s'.errpos ∧
          (i = .cmpr → t'.result = t.result) ∧
          (i ∈ [Instr.sort, .bwte, .bwteS, .bwtd] →
            ∀ a, a < s.len.toNat → Memory.read t'.ord a = Memory.read t.ord a) ∧
          (i = .bwtdS → ∀ a, a < s.len.toNat - 4 → Memory.read t'.ord a = Memory.read t.ord a) ∧
          (i ∈ [Instr.bwte, .bwteS, .bwtdS] → t'.origin = t.origin) ∧
          (i ∈ [Instr.bwte, .bwteS, .bwtd, .bwtdS, .mtfe, .mtfeC, .mtfd, .mtfdC] →
            t'.olen = t.olen ∧
            ∀ a, a < t.olen.toNat → Memory.read t'.obuf a = Memory.read t.obuf a) ∧
          (i ∈ [Instr.mtfe, .mtfeC, .mtfd, .mtfdC, .mtfi] → t'.lst = t.lst) ∧
          (i = .move → t'.len = t.len ∧
            ∀ a, a < t.len.toNat → Memory.read t'.ibuf a = Memory.read t.ibuf a)))

/-! ## The host port -/

/-- R24: writing CMD of an idle engine issues the word, whatever its bits; reading CMD gives the last
word issued, 0 after reset. -/
def Obligations.CmdWriteIssuesTheWord : Prop :=
  (∀ (s : State) (w : Word) (rest : List Move), s.status.busy = false →
    s.moves = .host (.write 0#3 0#32 w) :: rest →
    step s = .next { s with
      cmd := w
      status := ⟨true, false, false, s.status.haz, 0#4⟩
      errinfo := 0#32
      errpos := 0#32
      moves := rest
      port := .okay }) ∧
  (∀ (s : State) (rest : List Move), s.moves = .host (.read 0#3 0#32) :: rest →
    step s = .next { s with moves := rest, port := .data s.cmd }) ∧
  (∀ s t : State, step s = .next t → t.cmd ≠ s.cmd →
    (∃ rest, s.moves = .host (.write 0#3 0#32 t.cmd) :: rest) ∨
    ∃ rest, s.moves = .reset :: rest ∧ t.cmd = 0#32) ∧
  State.reset.cmd = 0#32

/-- STATUS reads by its layout (R25), reserved bits 0, and a write clears DONE (R27), ERR with ERRCODE
(R28) and HAZ (R29) where its data has a 1 and changes no other field. -/
def Obligations.StatusReadsAndClearsByItsLayout : Prop :=
  State.reset.status.toWord = 0#32 ∧
  ∀ (s : State) (rest : List Move),
    (s.moves = .host (.read 0#3 1#32) :: rest →
      ∃ w, step s = .next { s with moves := rest, port := .data w } ∧
        w.getLsbD 0 = s.status.busy ∧ w.getLsbD 1 = s.status.done ∧
        w.getLsbD 2 = s.status.err ∧ w.getLsbD 3 = s.status.haz ∧
        w.extractLsb' 4 4 = 0#4 ∧ w.extractLsb' 8 4 = s.status.errcode ∧
        w.extractLsb' 12 20 = 0#20) ∧
    ∀ data : Word, s.moves = .host (.write 0#3 1#32 data) :: rest →
      step s = .next { s with
        status :=
          { busy := s.status.busy
            done := s.status.done && !data.getLsbD 1
            err := s.status.err && !data.getLsbD 2
            haz := s.status.haz && !data.getLsbD 3
            errcode := if data.getLsbD 2 then 0#4 else s.status.errcode }
        moves := rest
        port := .okay }

/-- R30: CONFIG keeps bit 0 alone, at any time, and no command depends on it or changes it. -/
def Obligations.ConfigIsTheInterruptEnableOnly : Prop :=
  (∀ (s : State) (data : Word) (rest : List Move),
    s.moves = .host (.write 0#3 2#32 data) :: rest →
    step s = .next { s with ie := data.getLsbD 0, moves := rest, port := .okay }) ∧
  (∀ (s : State) (rest : List Move), s.moves = .host (.read 0#3 2#32) :: rest →
    step s = .next { s with
      moves := rest, port := .data (if s.ie then 0x00000001#32 else 0x00000000#32) }) ∧
  State.reset.ie = false ∧
  ∀ (i : Instr) (s : State) (e : Bool),
    (∀ t, exec i s = .next t → exec i { s with ie := e } = .next { t with ie := e }) ∧
    ∀ f, exec i s = .fault f → exec i { s with ie := e } = .fault f

/-- Operand registers and IBUF of an idle engine take what the host writes (R31 to R34, R42, R61), and
nothing else changes. -/
def Obligations.IdleWritesStoreTheirData : Prop :=
  ∀ (s : State) (data index : Word) (rest : List Move), s.status.busy = false →
    (s.moves = .host (.write 0#3 3#32 data) :: rest →
      step s = .next { s with len := data, moves := rest, port := .okay }) ∧
    (s.moves = .host (.write 0#3 4#32 data) :: rest →
      step s = .next { s with origin := data, moves := rest, port := .okay }) ∧
    (s.moves = .host (.write 0#3 5#32 data) :: rest →
      step s = .next { s with arg0 := data, moves := rest, port := .okay }) ∧
    (s.moves = .host (.write 0#3 6#32 data) :: rest →
      step s = .next { s with arg1 := data, moves := rest, port := .okay }) ∧
    (s.moves = .host (.write 1#3 index data) :: rest → index.toNat < s.bufsz →
      ∃ t, step s = .next t ∧
        t = { s with ibuf := t.ibuf, moves := rest, port := .okay } ∧
        Memory.read t.ibuf index.toNat = some (data.setWidth 8) ∧
        ∀ a, a ≠ index.toNat → Memory.read t.ibuf a = Memory.read s.ibuf a)

/-- R194: while busy, writes to CMD, LEN, ORIGIN, ARG0, ARG1 and IBUF are dropped and set HAZ; writes
to read-only registers and spaces are ignored and do not. (STATUS and CONFIG writes: their own
statements hold while busy too.) -/
def Obligations.BusyWritesAreDropped : Prop :=
  ∀ (s : State) (space : BitVec 3) (index data : Word) (rest : List Move),
    s.status.busy = true → s.moves = .host (.write space index data) :: rest →
    ((space = 0#3 ∧ index ∈ [0#32, 3#32, 4#32, 5#32, 6#32]) ∨
        (space = 1#3 ∧ index.toNat < s.bufsz) →
      step s = .next { s with
        status := { s.status with haz := true }, moves := rest, port := .okay }) ∧
    (space = 0#3 ∧ index = 1#32 →
      step s = .next { s with
        status :=
          { busy := true
            done := s.status.done && !data.getLsbD 1
            err := s.status.err && !data.getLsbD 2
            haz := s.status.haz && !data.getLsbD 3
            errcode := if data.getLsbD 2 then 0#4 else s.status.errcode }
        moves := rest
        port := .okay }) ∧
    (space = 0#3 ∧ index = 2#32 →
      step s = .next { s with ie := data.getLsbD 0, moves := rest, port := .okay }) ∧
    ((space = 0#3 ∧ 7 ≤ index.toNat ∧ index.toNat ≤ 13) ∨
        (space = 2#3 ∧ index.toNat < s.bufsz) ∨ (space = 3#3 ∧ index.toNat < s.nmax) ∨
        (space = 4#3 ∧ index.toNat < s.alpha.toNat) →
      step s = .next { s with moves := rest, port := .okay })

/-- What a busy engine answers to reads (R195). That an element which is also unwritten (R193) gets
BusyRead and not Unwritten is the model's choice (log 8). -/
def Obligations.BusyReadsAnswerOrFault : Prop :=
  ∀ (s : State) (space : BitVec 3) (index : Word) (rest : List Move),
    s.status.busy = true → s.moves = .host (.read space index) :: rest →
    (space = 0#3 →
      (∀ v, (index, v) ∈ [(0#32, s.cmd), (1#32, s.status.toWord), (2#32, configWord s.ie),
          (5#32, s.arg0), (6#32, s.arg1), (11#32, s.cap), (12#32, s.alpha),
          (13#32, 0x42575431#32)] →
        step s = .next { s with moves := rest, port := .data v }) ∧
      (index ∈ [3#32, 4#32, 7#32, 8#32, 9#32, 10#32] →
        step s = .fault (.busyRead .csr index.toNat))) ∧
    (space = 1#3 → index.toNat < s.bufsz → step s = .fault (.busyRead .ibuf index.toNat)) ∧
    (space = 2#3 → index.toNat < s.bufsz → step s = .fault (.busyRead .obuf index.toNat)) ∧
    (space = 3#3 → index.toNat < s.nmax → step s = .fault (.busyRead .ord index.toNat)) ∧
    (space = 4#3 → index.toNat < s.alpha.toNat → step s = .fault (.busyRead .lst index.toNat))

/-- Reads of an idle engine: every register its value, every written element its value zero-extended,
an unwritten one the fault Unwritten (R61, R67, R193). -/
def Obligations.IdleReadsAnswerTheState : Prop :=
  ∀ (s : State) (space : BitVec 3) (index : Word) (rest : List Move),
    s.status.busy = false → s.moves = .host (.read space index) :: rest →
    (space = 0#3 → ∀ v, (index, v) ∈ [(3#32, s.len), (4#32, s.origin), (5#32, s.arg0),
        (6#32, s.arg1), (7#32, s.result), (8#32, s.olen), (9#32, s.errinfo), (10#32, s.errpos),
        (11#32, s.cap), (12#32, s.alpha), (13#32, 0x42575431#32)] →
      step s = .next { s with moves := rest, port := .data v }) ∧
    (∀ m sp, (space, m, sp) ∈ [(1#3, s.ibuf, Space.ibuf), (2#3, s.obuf, Space.obuf)] →
      index.toNat < s.bufsz →
      (Memory.read m index.toNat = none → step s = .fault (.unwritten sp index.toNat)) ∧
      ∀ v, Memory.read m index.toNat = some v →
        step s = .next { s with moves := rest, port := .data (v.setWidth 32) }) ∧
    (space = 3#3 → index.toNat < s.nmax →
      (Memory.read s.ord index.toNat = none → step s = .fault (.unwritten .ord index.toNat)) ∧
      ∀ v, Memory.read s.ord index.toNat = some v →
        step s = .next { s with moves := rest, port := .data v }) ∧
    (space = 4#3 → index.toNat < s.alpha.toNat → ∀ v, s.lst[index.toNat]? = some v →
      step s = .next { s with moves := rest, port := .data (v.setWidth 32) })

/-- R65: a transaction is refused exactly when its space is unmapped or its index is out of range. -/
def Obligations.RefusedTransactionsAreThoseOffTheMap : Prop :=
  ∀ (s : State) (x : Transaction) (space : BitVec 3) (index : Word) (rest : List Move),
    (x = .read space index ∨ ∃ data, x = .write space index data) →
    s.moves = .host x :: rest →
    (step s = .fault (.decerr space index) ↔
      (5 ≤ space.toNat ∨ (space = 0#3 ∧ 14 ≤ index.toNat) ∨
        (space = 1#3 ∧ s.bufsz ≤ index.toNat) ∨ (space = 2#3 ∧ s.bufsz ≤ index.toNat) ∨
        (space = 3#3 ∧ s.nmax ≤ index.toNat) ∨ (space = 4#3 ∧ s.alpha.toNat ≤ index.toNat)))

/-- R66: a write to OBUF, ORD or LST, or to a read-only register, completes and changes nothing. -/
def Obligations.ReadOnlyWritesAreIgnored : Prop :=
  ∀ (s : State) (space : BitVec 3) (index data : Word) (rest : List Move),
    s.moves = .host (.write space index data) :: rest →
    ((space = 0#3 ∧ 7 ≤ index.toNat ∧ index.toNat ≤ 13) ∨
      (space = 2#3 ∧ index.toNat < s.bufsz) ∨ (space = 3#3 ∧ index.toNat < s.nmax) ∨
      (space = 4#3 ∧ index.toNat < s.alpha.toNat)) →
    step s = .next { s with moves := rest, port := .okay }

/-- No read has a side effect (R23, R67): only the host's answer changes. -/
def Obligations.ReadsHaveNoSideEffect : Prop :=
  ∀ (s t : State) (space : BitVec 3) (index : Word) (rest : List Move),
    s.moves = .host (.read space index) :: rest → step s = .next t →
    ∃ v, t = { s with moves := rest, port := .data v }

/-! ## Completion, interrupt, reset and whole-machine rules -/

/-- R26: BUSY is set by issue and cleared by completion or reset, and by nothing else. -/
def Obligations.BusyChangesOnlyByIssueAndCompletion : Prop :=
  ∀ s t : State, step s = .next t →
    (s.status.busy = false → t.status.busy = true →
      ∃ w rest, s.moves = .host (.write 0#3 0#32 w) :: rest) ∧
    (s.status.busy = true → t.status.busy = false →
      s.moves = [] ∨ (∃ rest, s.moves = .engine :: rest) ∨ ∃ rest, s.moves = .reset :: rest) ∧
    (s.status.busy = true → (s.moves = [] ∨ ∃ rest, s.moves = .engine :: rest) →
      t.status.busy = false ∧ t.status.done = true)

/-- R29: HAZ is set by a dropped write and by nothing else, and cleared by a write of 1 to STATUS bit 3
or by reset and by nothing else. -/
def Obligations.HazIsSticky : Prop :=
  ∀ s t : State, step s = .next t →
    (s.status.haz = false → t.status.haz = true →
      s.status.busy = true ∧ ∃ space index data rest,
        s.moves = .host (.write space index data) :: rest ∧
        ((space = 0#3 ∧ index ∈ [0#32, 3#32, 4#32, 5#32, 6#32]) ∨ space = 1#3)) ∧
    (s.status.haz = true → t.status.haz = false →
      (∃ data rest, s.moves = .host (.write 0#3 1#32 data) :: rest ∧ data.getLsbD 3 = true) ∨
      ∃ rest, s.moves = .reset :: rest) ∧
    (∀ space index data rest, s.status.busy = true →
      s.moves = .host (.write space index data) :: rest →
      (space = 0#3 ∧ index ∈ [0#32, 3#32, 4#32, 5#32, 6#32]) ∨ space = 1#3 →
      t.status.haz = true) ∧
    (∀ data rest, s.moves = .host (.write 0#3 1#32 data) :: rest → data.getLsbD 3 = true →
      t.status.haz = false) ∧
    ∀ rest, s.moves = .reset :: rest → t.status.haz = false

/-- R71: no host transaction between issue and completion changes what the command reads. -/
def Obligations.OperandsStayAsIssued : Prop :=
  ∀ (s u : State) (ts : List Transaction) (rest : List Move), s.status.busy = true →
    s.moves = ts.map Move.host ++ rest → Host.Core.run core ts.length s = .next u →
    u.status.busy = true ∧
    u = { s with status := u.status, ie := u.ie, moves := rest, port := u.port }

/-- CAP, ALPHA and ID never change: no step changes the first two, reset included, and ID reads as its
constant in every state (R39 to R41). -/
def Obligations.ConstantRegistersNeverChange : Prop :=
  (∀ s t : State, step s = .next t → t.cap = s.cap ∧ t.alpha = s.alpha) ∧
  (∀ (s : State) (rest : List Move), s.moves = .host (.read 0#3 13#32) :: rest →
    step s = .next { s with moves := rest, port := .data 0x42575431#32 }) ∧
  State.reset.cap.toNat = Config.nmax ∧ 1 ≤ Config.nmax ∧ Config.nmax ≤ 2 ^ 31 ∧
  State.reset.alpha = 0x00000100#32

/-- R50: irq = DONE AND IE after every step: it rises at a completion with IE = 1, and falls when DONE
or IE is cleared or a command is issued. -/
def Obligations.IrqFollowsDoneAndEnable : Prop :=
  (∀ s : State, s.irq = true ↔ s.status.done = true ∧ s.ie = true) ∧
  ∀ s t : State, step s = .next t →
    (s.status.busy = true → (s.moves = [] ∨ ∃ rest, s.moves = .engine :: rest) →
      t.irq = s.ie) ∧
    (∀ w rest, s.moves = .host (.write 0#3 0#32 w) :: rest → s.status.busy = false →
      t.irq = false) ∧
    (∀ data rest, s.moves = .host (.write 0#3 1#32 data) :: rest → data.getLsbD 1 = true →
      t.irq = false) ∧
    (∀ data rest, s.moves = .host (.write 0#3 2#32 data) :: rest → data.getLsbD 0 = false →
      t.irq = false)

/-- A busy engine stops being busy, by a completion or by a reset that abandons the command, or a model
fault stops the run, after at most one step more than the moves listed. The bound is the model's: it
rests on its schedule `moves`, which is finite and leaves the engine every turn once it is used up
(DESIGN CHOICE, log 2). R196 gives no bound. -/
def Obligations.BusyEndsOrFaultsWithinTheMoves : Prop :=
  ∀ s : State, s.status.busy = true →
    ∃ k, k ≤ s.moves.length + 1 ∧
      ((∃ t, Host.Core.run core k s = .next t ∧ t.status.busy = false) ∨
        ∃ f, Host.Core.run core k s = .fault f)

/-- R190: the state after reset, and after a reset of a running machine (R191), whose CAP and ALPHA
stay. CNT's value is the model's choice (log 5) and is not stated. -/
def Obligations.ResetLeavesTheSpecifiedState : Prop :=
  (∀ s : State, s = State.reset ∨
      (∃ s0 rest, s0.moves = .reset :: rest ∧ step s0 = .next s ∧ s.cap = s0.cap ∧
        s.alpha = s0.alpha) →
    s.cmd = 0#32 ∧ s.status = ⟨false, false, false, false, 0#4⟩ ∧ s.ie = false ∧
    s.len = 0#32 ∧ s.origin = 0#32 ∧ s.arg0 = 0#32 ∧ s.arg1 = 0#32 ∧ s.result = 0#32 ∧
    s.olen = 0#32 ∧ s.errinfo = 0#32 ∧ s.errpos = 0#32 ∧
    s.lst.length = s.alpha.toNat ∧
    (∀ k, k < s.alpha.toNat → s.lst[k]? = some (BitVec.ofNat 8 k)) ∧
    (∀ a, Memory.read s.ibuf a = none ∧ Memory.read s.obuf a = none ∧
      Memory.read s.ord a = none) ∧
    s.irq = false) ∧
  State.reset.cap = BitVec.ofNat 32 Config.nmax ∧ State.reset.alpha = 256#32 ∧
  csrRead State.reset .id = 0x42575431#32 ∧
  ∀ (s0 : State) (rest : List Move), s0.moves = .reset :: rest →
    ∃ t, step s0 = .next t ∧ t.cap = s0.cap ∧ t.alpha = s0.alpha ∧ t.moves = rest

/-- The invariant holds after reset. -/
def Obligations.ResetMeetsTheInvariant : Prop := State.reset.Inv

/-- Every step keeps the invariant. -/
def Obligations.StepKeepsTheInvariant : Prop :=
  ∀ s t : State, s.Inv → step s = .next t → t.Inv

/-- The recency list stays a permutation of 0..ALPHA-1 under every command and every host move
(R46). -/
def Obligations.RecencyListStaysAPermutation : Prop :=
  ∀ s t : State, s.lst.Perm (identityList s.alpha.toNat) → step s = .next t →
    t.lst.Perm (identityList s.alpha.toNat)
end

