-- ==== Sys2Proof/Laws/Memory.lean ====
section
/-! SUPPORT. The laws of storage: read after write, the canonical form kept by every operation, and
what a read of many elements answers. -/

namespace Sys2Proof.Machine

variable {α : Type}

@[simp] theorem Memory.read_nil (a : Nat) : Memory.read ([] : List (Nat × α)) a = none := rfl

theorem Memory.read_cons (k : Nat) (v : α) (m : List (Nat × α)) (a : Nat) :
    Memory.read ((k, v) :: m) a = if k = a then some v else Memory.read m a := rfl

theorem Memory.read_eq_none_of_lt {m : List (Nat × α)} {a : Nat} (h : ∀ p ∈ m, a < p.1) :
    Memory.read m a = none := by
  induction m with
  | nil => rfl
  | cons p m ih =>
    have hp : a < p.1 := h p (by simp)
    rw [Memory.read_cons, if_neg (by omega)]
    exact ih fun q hq => h q (by simp [hq])

/-- Read after write: the written element, and every other element as before. -/
theorem Memory.read_write (m : List (Nat × α)) (a b : Nat) (v : α) :
    Memory.read (Memory.write m a v) b = if a = b then some v else Memory.read m b := by
  induction m with
  | nil => rfl
  | cons p m ih =>
    obtain ⟨k, w⟩ := p
    simp only [Memory.write]
    split
    · rfl
    · split
      · subst_vars
        by_cases h : k = b <;> simp [Memory.read_cons, h]
      · simp only [Memory.read_cons, ih]
        by_cases hk : k = b <;> by_cases ha : a = b <;> simp_all

@[simp] theorem Memory.read_write_self (m : List (Nat × α)) (a : Nat) (v : α) :
    Memory.read (Memory.write m a v) a = some v := by simp [Memory.read_write]

theorem Memory.mem_write {m : List (Nat × α)} {a : Nat} {v : α} {p : Nat × α}
    (h : p ∈ Memory.write m a v) : p = (a, v) ∨ p ∈ m := by
  induction m with
  | nil => simpa [Memory.write] using h
  | cons q m ih =>
    obtain ⟨k, w⟩ := q
    simp only [Memory.write] at h
    split at h
    · simpa using h
    · split at h
      · rcases List.mem_cons.1 h with h | h
        · exact .inl h
        · exact .inr (List.mem_cons_of_mem _ h)
      · rcases List.mem_cons.1 h with h | h
        · exact .inr (h ▸ List.mem_cons_self)
        · exact (ih h).imp_right (List.mem_cons_of_mem _)

/-- A write keeps the canonical form. -/
theorem Memory.wf_write {m : List (Nat × α)} (h : Memory.wf m) (a : Nat) (v : α) :
    Memory.wf (Memory.write m a v) := by
  induction m with
  | nil => simp [Memory.write, Memory.wf]
  | cons q m ih =>
    obtain ⟨k, w⟩ := q
    obtain ⟨hk, hm⟩ := List.pairwise_cons.1 h
    simp only [Memory.write]
    split
    · refine List.pairwise_cons.2 ⟨fun p hp => ?_, h⟩
      rcases List.mem_cons.1 hp with rfl | hp
      · assumption
      · exact Nat.lt_trans ‹a < k› (hk p hp)
    · split
      · subst_vars
        exact List.pairwise_cons.2 ⟨hk, hm⟩
      · refine List.pairwise_cons.2 ⟨fun p hp => ?_, ih hm⟩
        rcases Memory.mem_write hp with rfl | hp
        · show k < a
          omega
        · exact hk p hp

/-- Writing a value that already stands there changes nothing. -/
theorem Memory.write_of_read {m : List (Nat × α)} (h : Memory.wf m) {a : Nat} {v : α}
    (hr : Memory.read m a = some v) : Memory.write m a v = m := by
  induction m with
  | nil => simp at hr
  | cons q m ih =>
    obtain ⟨k, w⟩ := q
    obtain ⟨hk, hm⟩ := List.pairwise_cons.1 h
    rw [Memory.read_cons] at hr
    simp only [Memory.write]
    by_cases hka : k = a
    · subst hka
      simp_all
    · rw [if_neg hka] at hr
      have hlt : ¬ a < k := by
        intro hlt
        rw [Memory.read_eq_none_of_lt fun p hp => Nat.lt_trans hlt (hk p hp)] at hr
        simp at hr
      rw [if_neg hlt, if_neg (Ne.symm hka), ih hm hr]

theorem Memory.below_write {m : List (Nat × α)} {bound : Nat} (h : Memory.below m bound) {a : Nat}
    (ha : a < bound) (v : α) : Memory.below (Memory.write m a v) bound := by
  intro p hp
  rcases Memory.mem_write hp with rfl | hp
  · exact ha
  · exact h p hp

/-- Reading after many writes. -/
theorem Memory.read_writeMany (m : List (Nat × α)) (a : Nat) (vs : List α) (b : Nat) :
    Memory.read (Memory.writeMany m a vs) b =
      if a ≤ b ∧ b < a + vs.length then vs[b - a]? else Memory.read m b := by
  induction vs generalizing m a with
  | nil => simp [Memory.writeMany]
  | cons v vs ih =>
    simp only [Memory.writeMany, ih, Memory.read_write, List.length_cons]
    by_cases h0 : a = b
    · subst h0
      rw [if_neg (by omega), if_pos rfl, if_pos (by omega)]
      simp
    · by_cases h1 : a + 1 ≤ b ∧ b < a + 1 + vs.length
      · rw [if_pos h1, if_pos (by omega)]
        rw [show b - a = (b - (a + 1)) + 1 by omega, List.getElem?_cons_succ]
      · rw [if_neg h1, if_neg h0, if_neg (by omega)]

/-- The written elements stand there. -/
theorem Memory.holds_writeMany (m : List (Nat × α)) (a : Nat) (vs : List α) :
    Memory.holds (Memory.writeMany m a vs) a vs := by
  intro i hi
  rw [Memory.read_writeMany, if_pos (by omega), Nat.add_sub_cancel_left]

/-- Many writes leave the elements outside them. -/
theorem Memory.read_writeMany_outside {m : List (Nat × α)} {a : Nat} {vs : List α} {b : Nat}
    (h : b < a ∨ a + vs.length ≤ b) : Memory.read (Memory.writeMany m a vs) b = Memory.read m b := by
  rw [Memory.read_writeMany, if_neg (by omega)]

/-- Many writes keep the canonical form. -/
theorem Memory.wf_writeMany {m : List (Nat × α)} (h : Memory.wf m) (a : Nat) (vs : List α) :
    Memory.wf (Memory.writeMany m a vs) := by
  induction vs generalizing m a with
  | nil => exact h
  | cons v vs ih => exact ih (Memory.wf_write h a v) (a + 1)

theorem Memory.below_writeMany {m : List (Nat × α)} {bound : Nat} (h : Memory.below m bound)
    {a : Nat} {vs : List α} (ha : a + vs.length ≤ bound) :
    Memory.below (Memory.writeMany m a vs) bound := by
  induction vs generalizing m a with
  | nil => exact h
  | cons v vs ih =>
    simp only [List.length_cons] at ha
    exact ih (Memory.below_write h (by omega) v) (by omega)

theorem Memory.writeMany_of_holds {m : List (Nat × α)} (h : Memory.wf m) {a : Nat} {vs : List α}
    (hv : Memory.holds m a vs) : Memory.writeMany m a vs = m := by
  induction vs generalizing a with
  | nil => rfl
  | cons v vs ih =>
    have h0 : Memory.read m a = some v := by simpa using hv 0 (by simp)
    rw [Memory.writeMany, Memory.write_of_read h h0]
    refine ih fun i hi => ?_
    have := hv (i + 1) (by simpa using hi)
    rwa [List.getElem?_cons_succ, show a + (i + 1) = a + 1 + i by omega] at this

/-- A read of many elements answers them exactly when they all stand there. -/
theorem Memory.readMany_eq_ok_iff (m : List (Nat × α)) (a n : Nat) (vs : List α) :
    Memory.readMany m a n = .ok vs ↔ vs.length = n ∧ Memory.holds m a vs := by
  induction n generalizing a vs with
  | zero =>
    constructor
    · rintro ⟨⟩
      exact ⟨rfl, fun i hi => absurd hi (by simp)⟩
    · rintro ⟨h, -⟩
      rw [List.eq_nil_of_length_eq_zero h]
      rfl
  | succ n ih =>
    constructor
    · intro h
      simp only [Memory.readMany] at h
      split at h
      · cases h
      · rename_i v hv
        split at h
        · rename_i ws hws
          cases h
          obtain ⟨hl, hh⟩ := (ih _ _).1 hws
          refine ⟨by simp [hl], fun i hi => ?_⟩
          cases i with
          | zero => simpa using hv
          | succ i =>
            have := hh i (by simpa using hi)
            rwa [List.getElem?_cons_succ, show a + (i + 1) = a + 1 + i by omega]
        · cases h
    · rintro ⟨hl, hh⟩
      obtain _ | ⟨v, ws⟩ := vs
      · simp at hl
      · have h0 : Memory.read m a = some v := by simpa using hh 0 (by simp)
        have hws : Memory.readMany m (a + 1) n = .ok ws := by
          refine (ih _ _).2 ⟨by simpa using hl, fun i hi => ?_⟩
          have := hh (i + 1) (by simpa using hi)
          rwa [List.getElem?_cons_succ, show a + (i + 1) = a + 1 + i by omega] at this
        simp [Memory.readMany, h0, hws]

/-- A read of many elements answers the lowest unwritten index exactly when there is one. -/
theorem Memory.readMany_eq_error_iff (m : List (Nat × α)) (a n i : Nat) :
    Memory.readMany m a n = .error i ↔ Memory.firstUnwritten m a n i := by
  unfold Memory.firstUnwritten
  induction n generalizing a with
  | zero =>
    constructor
    · rintro ⟨⟩
    · rintro ⟨h1, h2, -⟩
      omega
  | succ n ih =>
    simp only [Memory.readMany]
    split
    · rename_i h0
      constructor
      · rintro ⟨⟩
        exact ⟨by omega, by omega, h0, fun j h1 h2 => by omega⟩
      · rintro ⟨h1, h2, h3, h4⟩
        by_cases hai : a = i
        · rw [hai]
        · exact absurd h0 (h4 a (by omega) (by omega))
    · rename_i v h0
      have key : (a + 1 ≤ i ∧ i < a + 1 + n ∧ Memory.read m i = none ∧
          ∀ j, a + 1 ≤ j → j < i → Memory.read m j ≠ none) ↔
          (a ≤ i ∧ i < a + (n + 1) ∧ Memory.read m i = none ∧
          ∀ j, a ≤ j → j < i → Memory.read m j ≠ none) := by
        constructor
        · rintro ⟨h1, h2, h3, h4⟩
          refine ⟨by omega, by omega, h3, fun j h5 h6 => ?_⟩
          by_cases haj : a = j
          · subst haj
            simp [h0]
          · exact h4 j (by omega) h6
        · rintro ⟨h1, h2, h3, h4⟩
          have : a ≠ i := by
            rintro rfl
            simp [h0] at h3
          exact ⟨by omega, by omega, h3, fun j h5 h6 => h4 j (by omega) h6⟩
      rw [← key, ← ih]
      split <;> simp_all

end Sys2Proof.Machine
end

