-- ==== Sys2Proof/Laws/State.lean ====
section
/-! SUPPORT. One lemma per field per update of State, each true by definition. -/

namespace Sys2Proof.Machine

section
variable (w : Word) (s : State)

@[simp] theorem issue_cmd : (issue w s).cmd = w := rfl
@[simp] theorem issue_status : (issue w s).status = { s.status with busy := true, done := false, err := false, errcode := 0#4 } := rfl
@[simp] theorem issue_ie : (issue w s).ie = s.ie := rfl
@[simp] theorem issue_len : (issue w s).len = s.len := rfl
@[simp] theorem issue_origin : (issue w s).origin = s.origin := rfl
@[simp] theorem issue_arg0 : (issue w s).arg0 = s.arg0 := rfl
@[simp] theorem issue_arg1 : (issue w s).arg1 = s.arg1 := rfl
@[simp] theorem issue_result : (issue w s).result = s.result := rfl
@[simp] theorem issue_olen : (issue w s).olen = s.olen := rfl
@[simp] theorem issue_errinfo : (issue w s).errinfo = 0#32 := rfl
@[simp] theorem issue_errpos : (issue w s).errpos = 0#32 := rfl
@[simp] theorem issue_cap : (issue w s).cap = s.cap := rfl
@[simp] theorem issue_alpha : (issue w s).alpha = s.alpha := rfl
@[simp] theorem issue_ibuf : (issue w s).ibuf = s.ibuf := rfl
@[simp] theorem issue_obuf : (issue w s).obuf = s.obuf := rfl
@[simp] theorem issue_ord : (issue w s).ord = s.ord := rfl
@[simp] theorem issue_lst : (issue w s).lst = s.lst := rfl
@[simp] theorem issue_cnt : (issue w s).cnt = s.cnt := rfl
@[simp] theorem issue_moves : (issue w s).moves = s.moves := rfl
@[simp] theorem issue_port : (issue w s).port = s.port := rfl

end

section
variable (s : State)

@[simp] theorem complete_cmd : (complete s).cmd = s.cmd := rfl
@[simp] theorem complete_status : (complete s).status = { s.status with busy := false, done := true } := rfl
@[simp] theorem complete_ie : (complete s).ie = s.ie := rfl
@[simp] theorem complete_len : (complete s).len = s.len := rfl
@[simp] theorem complete_origin : (complete s).origin = s.origin := rfl
@[simp] theorem complete_arg0 : (complete s).arg0 = s.arg0 := rfl
@[simp] theorem complete_arg1 : (complete s).arg1 = s.arg1 := rfl
@[simp] theorem complete_result : (complete s).result = s.result := rfl
@[simp] theorem complete_olen : (complete s).olen = s.olen := rfl
@[simp] theorem complete_errinfo : (complete s).errinfo = s.errinfo := rfl
@[simp] theorem complete_errpos : (complete s).errpos = s.errpos := rfl
@[simp] theorem complete_cap : (complete s).cap = s.cap := rfl
@[simp] theorem complete_alpha : (complete s).alpha = s.alpha := rfl
@[simp] theorem complete_ibuf : (complete s).ibuf = s.ibuf := rfl
@[simp] theorem complete_obuf : (complete s).obuf = s.obuf := rfl
@[simp] theorem complete_ord : (complete s).ord = s.ord := rfl
@[simp] theorem complete_lst : (complete s).lst = s.lst := rfl
@[simp] theorem complete_cnt : (complete s).cnt = s.cnt := rfl
@[simp] theorem complete_moves : (complete s).moves = s.moves := rfl
@[simp] theorem complete_port : (complete s).port = s.port := rfl

end

section
variable (e : ErrCode) (info pos : Word) (s : State)

@[simp] theorem raiseError_cmd : (raiseError e info pos s).cmd = s.cmd := rfl
@[simp] theorem raiseError_status : (raiseError e info pos s).status = ⟨false, true, true, s.status.haz, e.number⟩ := rfl
@[simp] theorem raiseError_ie : (raiseError e info pos s).ie = s.ie := rfl
@[simp] theorem raiseError_len : (raiseError e info pos s).len = s.len := rfl
@[simp] theorem raiseError_origin : (raiseError e info pos s).origin = s.origin := rfl
@[simp] theorem raiseError_arg0 : (raiseError e info pos s).arg0 = s.arg0 := rfl
@[simp] theorem raiseError_arg1 : (raiseError e info pos s).arg1 = s.arg1 := rfl
@[simp] theorem raiseError_result : (raiseError e info pos s).result = s.result := rfl
@[simp] theorem raiseError_olen : (raiseError e info pos s).olen = s.olen := rfl
@[simp] theorem raiseError_errinfo : (raiseError e info pos s).errinfo = info := rfl
@[simp] theorem raiseError_errpos : (raiseError e info pos s).errpos = pos := rfl
@[simp] theorem raiseError_cap : (raiseError e info pos s).cap = s.cap := rfl
@[simp] theorem raiseError_alpha : (raiseError e info pos s).alpha = s.alpha := rfl
@[simp] theorem raiseError_ibuf : (raiseError e info pos s).ibuf = s.ibuf := rfl
@[simp] theorem raiseError_obuf : (raiseError e info pos s).obuf = s.obuf := rfl
@[simp] theorem raiseError_ord : (raiseError e info pos s).ord = s.ord := rfl
@[simp] theorem raiseError_lst : (raiseError e info pos s).lst = s.lst := rfl
@[simp] theorem raiseError_cnt : (raiseError e info pos s).cnt = s.cnt := rfl
@[simp] theorem raiseError_moves : (raiseError e info pos s).moves = s.moves := rfl
@[simp] theorem raiseError_port : (raiseError e info pos s).port = s.port := rfl

end

section
variable (s : State)

@[simp] theorem dropWrite_cmd : (dropWrite s).cmd = s.cmd := rfl
@[simp] theorem dropWrite_status : (dropWrite s).status = { s.status with haz := true } := rfl
@[simp] theorem dropWrite_ie : (dropWrite s).ie = s.ie := rfl
@[simp] theorem dropWrite_len : (dropWrite s).len = s.len := rfl
@[simp] theorem dropWrite_origin : (dropWrite s).origin = s.origin := rfl
@[simp] theorem dropWrite_arg0 : (dropWrite s).arg0 = s.arg0 := rfl
@[simp] theorem dropWrite_arg1 : (dropWrite s).arg1 = s.arg1 := rfl
@[simp] theorem dropWrite_result : (dropWrite s).result = s.result := rfl
@[simp] theorem dropWrite_olen : (dropWrite s).olen = s.olen := rfl
@[simp] theorem dropWrite_errinfo : (dropWrite s).errinfo = s.errinfo := rfl
@[simp] theorem dropWrite_errpos : (dropWrite s).errpos = s.errpos := rfl
@[simp] theorem dropWrite_cap : (dropWrite s).cap = s.cap := rfl
@[simp] theorem dropWrite_alpha : (dropWrite s).alpha = s.alpha := rfl
@[simp] theorem dropWrite_ibuf : (dropWrite s).ibuf = s.ibuf := rfl
@[simp] theorem dropWrite_obuf : (dropWrite s).obuf = s.obuf := rfl
@[simp] theorem dropWrite_ord : (dropWrite s).ord = s.ord := rfl
@[simp] theorem dropWrite_lst : (dropWrite s).lst = s.lst := rfl
@[simp] theorem dropWrite_cnt : (dropWrite s).cnt = s.cnt := rfl
@[simp] theorem dropWrite_moves : (dropWrite s).moves = s.moves := rfl
@[simp] theorem dropWrite_port : (dropWrite s).port = s.port := rfl

end

section
variable (s : State)

@[simp] theorem resetMachine_cmd : (resetMachine s).cmd = 0#32 := rfl
@[simp] theorem resetMachine_status : (resetMachine s).status = ⟨false, false, false, false, 0#4⟩ := rfl
@[simp] theorem resetMachine_ie : (resetMachine s).ie = false := rfl
@[simp] theorem resetMachine_len : (resetMachine s).len = 0#32 := rfl
@[simp] theorem resetMachine_origin : (resetMachine s).origin = 0#32 := rfl
@[simp] theorem resetMachine_arg0 : (resetMachine s).arg0 = 0#32 := rfl
@[simp] theorem resetMachine_arg1 : (resetMachine s).arg1 = 0#32 := rfl
@[simp] theorem resetMachine_result : (resetMachine s).result = 0#32 := rfl
@[simp] theorem resetMachine_olen : (resetMachine s).olen = 0#32 := rfl
@[simp] theorem resetMachine_errinfo : (resetMachine s).errinfo = 0#32 := rfl
@[simp] theorem resetMachine_errpos : (resetMachine s).errpos = 0#32 := rfl
@[simp] theorem resetMachine_cap : (resetMachine s).cap = s.cap := rfl
@[simp] theorem resetMachine_alpha : (resetMachine s).alpha = s.alpha := rfl
@[simp] theorem resetMachine_ibuf : (resetMachine s).ibuf = [] := rfl
@[simp] theorem resetMachine_obuf : (resetMachine s).obuf = [] := rfl
@[simp] theorem resetMachine_ord : (resetMachine s).ord = [] := rfl
@[simp] theorem resetMachine_lst : (resetMachine s).lst = identityList s.alpha.toNat := rfl
@[simp] theorem resetMachine_cnt : (resetMachine s).cnt = List.replicate 256 0 := rfl
@[simp] theorem resetMachine_moves : (resetMachine s).moves = s.moves := rfl
@[simp] theorem resetMachine_port : (resetMachine s).port = .none := rfl

end

section
variable (l : List Nat) (s : State)

@[simp] theorem putOrder_cmd : (putOrder l s).cmd = s.cmd := rfl
@[simp] theorem putOrder_status : (putOrder l s).status = s.status := rfl
@[simp] theorem putOrder_ie : (putOrder l s).ie = s.ie := rfl
@[simp] theorem putOrder_len : (putOrder l s).len = s.len := rfl
@[simp] theorem putOrder_origin : (putOrder l s).origin = s.origin := rfl
@[simp] theorem putOrder_arg0 : (putOrder l s).arg0 = s.arg0 := rfl
@[simp] theorem putOrder_arg1 : (putOrder l s).arg1 = s.arg1 := rfl
@[simp] theorem putOrder_result : (putOrder l s).result = s.result := rfl
@[simp] theorem putOrder_olen : (putOrder l s).olen = s.olen := rfl
@[simp] theorem putOrder_errinfo : (putOrder l s).errinfo = s.errinfo := rfl
@[simp] theorem putOrder_errpos : (putOrder l s).errpos = s.errpos := rfl
@[simp] theorem putOrder_cap : (putOrder l s).cap = s.cap := rfl
@[simp] theorem putOrder_alpha : (putOrder l s).alpha = s.alpha := rfl
@[simp] theorem putOrder_ibuf : (putOrder l s).ibuf = s.ibuf := rfl
@[simp] theorem putOrder_obuf : (putOrder l s).obuf = s.obuf := rfl
@[simp] theorem putOrder_ord : (putOrder l s).ord = Memory.writeMany s.ord 0 (l.map (BitVec.ofNat 32)) := rfl
@[simp] theorem putOrder_lst : (putOrder l s).lst = s.lst := rfl
@[simp] theorem putOrder_cnt : (putOrder l s).cnt = s.cnt := rfl
@[simp] theorem putOrder_moves : (putOrder l s).moves = s.moves := rfl
@[simp] theorem putOrder_port : (putOrder l s).port = s.port := rfl

end

section
variable (l : List Byte) (s : State)

@[simp] theorem putOutput_cmd : (putOutput l s).cmd = s.cmd := rfl
@[simp] theorem putOutput_status : (putOutput l s).status = s.status := rfl
@[simp] theorem putOutput_ie : (putOutput l s).ie = s.ie := rfl
@[simp] theorem putOutput_len : (putOutput l s).len = s.len := rfl
@[simp] theorem putOutput_origin : (putOutput l s).origin = s.origin := rfl
@[simp] theorem putOutput_arg0 : (putOutput l s).arg0 = s.arg0 := rfl
@[simp] theorem putOutput_arg1 : (putOutput l s).arg1 = s.arg1 := rfl
@[simp] theorem putOutput_result : (putOutput l s).result = s.result := rfl
@[simp] theorem putOutput_olen : (putOutput l s).olen = BitVec.ofNat 32 l.length := rfl
@[simp] theorem putOutput_errinfo : (putOutput l s).errinfo = s.errinfo := rfl
@[simp] theorem putOutput_errpos : (putOutput l s).errpos = s.errpos := rfl
@[simp] theorem putOutput_cap : (putOutput l s).cap = s.cap := rfl
@[simp] theorem putOutput_alpha : (putOutput l s).alpha = s.alpha := rfl
@[simp] theorem putOutput_ibuf : (putOutput l s).ibuf = s.ibuf := rfl
@[simp] theorem putOutput_obuf : (putOutput l s).obuf = Memory.writeMany s.obuf 0 l := rfl
@[simp] theorem putOutput_ord : (putOutput l s).ord = s.ord := rfl
@[simp] theorem putOutput_lst : (putOutput l s).lst = s.lst := rfl
@[simp] theorem putOutput_cnt : (putOutput l s).cnt = s.cnt := rfl
@[simp] theorem putOutput_moves : (putOutput l s).moves = s.moves := rfl
@[simp] theorem putOutput_port : (putOutput l s).port = s.port := rfl

end

section
variable (l : List Byte) (s : State)

@[simp] theorem putInput_cmd : (putInput l s).cmd = s.cmd := rfl
@[simp] theorem putInput_status : (putInput l s).status = s.status := rfl
@[simp] theorem putInput_ie : (putInput l s).ie = s.ie := rfl
@[simp] theorem putInput_len : (putInput l s).len = BitVec.ofNat 32 l.length := rfl
@[simp] theorem putInput_origin : (putInput l s).origin = s.origin := rfl
@[simp] theorem putInput_arg0 : (putInput l s).arg0 = s.arg0 := rfl
@[simp] theorem putInput_arg1 : (putInput l s).arg1 = s.arg1 := rfl
@[simp] theorem putInput_result : (putInput l s).result = s.result := rfl
@[simp] theorem putInput_olen : (putInput l s).olen = s.olen := rfl
@[simp] theorem putInput_errinfo : (putInput l s).errinfo = s.errinfo := rfl
@[simp] theorem putInput_errpos : (putInput l s).errpos = s.errpos := rfl
@[simp] theorem putInput_cap : (putInput l s).cap = s.cap := rfl
@[simp] theorem putInput_alpha : (putInput l s).alpha = s.alpha := rfl
@[simp] theorem putInput_ibuf : (putInput l s).ibuf = Memory.writeMany s.ibuf 0 l := rfl
@[simp] theorem putInput_obuf : (putInput l s).obuf = s.obuf := rfl
@[simp] theorem putInput_ord : (putInput l s).ord = s.ord := rfl
@[simp] theorem putInput_lst : (putInput l s).lst = s.lst := rfl
@[simp] theorem putInput_cnt : (putInput l s).cnt = s.cnt := rfl
@[simp] theorem putInput_moves : (putInput l s).moves = s.moves := rfl
@[simp] theorem putInput_port : (putInput l s).port = s.port := rfl

end

section
variable (r : Word) (s : State)

@[simp] theorem putOrigin_cmd : (putOrigin r s).cmd = s.cmd := rfl
@[simp] theorem putOrigin_status : (putOrigin r s).status = s.status := rfl
@[simp] theorem putOrigin_ie : (putOrigin r s).ie = s.ie := rfl
@[simp] theorem putOrigin_len : (putOrigin r s).len = s.len := rfl
@[simp] theorem putOrigin_origin : (putOrigin r s).origin = r := rfl
@[simp] theorem putOrigin_arg0 : (putOrigin r s).arg0 = s.arg0 := rfl
@[simp] theorem putOrigin_arg1 : (putOrigin r s).arg1 = s.arg1 := rfl
@[simp] theorem putOrigin_result : (putOrigin r s).result = s.result := rfl
@[simp] theorem putOrigin_olen : (putOrigin r s).olen = s.olen := rfl
@[simp] theorem putOrigin_errinfo : (putOrigin r s).errinfo = s.errinfo := rfl
@[simp] theorem putOrigin_errpos : (putOrigin r s).errpos = s.errpos := rfl
@[simp] theorem putOrigin_cap : (putOrigin r s).cap = s.cap := rfl
@[simp] theorem putOrigin_alpha : (putOrigin r s).alpha = s.alpha := rfl
@[simp] theorem putOrigin_ibuf : (putOrigin r s).ibuf = s.ibuf := rfl
@[simp] theorem putOrigin_obuf : (putOrigin r s).obuf = s.obuf := rfl
@[simp] theorem putOrigin_ord : (putOrigin r s).ord = s.ord := rfl
@[simp] theorem putOrigin_lst : (putOrigin r s).lst = s.lst := rfl
@[simp] theorem putOrigin_cnt : (putOrigin r s).cnt = s.cnt := rfl
@[simp] theorem putOrigin_moves : (putOrigin r s).moves = s.moves := rfl
@[simp] theorem putOrigin_port : (putOrigin r s).port = s.port := rfl

end

section
variable (r : Word) (s : State)

@[simp] theorem putResult_cmd : (putResult r s).cmd = s.cmd := rfl
@[simp] theorem putResult_status : (putResult r s).status = s.status := rfl
@[simp] theorem putResult_ie : (putResult r s).ie = s.ie := rfl
@[simp] theorem putResult_len : (putResult r s).len = s.len := rfl
@[simp] theorem putResult_origin : (putResult r s).origin = s.origin := rfl
@[simp] theorem putResult_arg0 : (putResult r s).arg0 = s.arg0 := rfl
@[simp] theorem putResult_arg1 : (putResult r s).arg1 = s.arg1 := rfl
@[simp] theorem putResult_result : (putResult r s).result = r := rfl
@[simp] theorem putResult_olen : (putResult r s).olen = s.olen := rfl
@[simp] theorem putResult_errinfo : (putResult r s).errinfo = s.errinfo := rfl
@[simp] theorem putResult_errpos : (putResult r s).errpos = s.errpos := rfl
@[simp] theorem putResult_cap : (putResult r s).cap = s.cap := rfl
@[simp] theorem putResult_alpha : (putResult r s).alpha = s.alpha := rfl
@[simp] theorem putResult_ibuf : (putResult r s).ibuf = s.ibuf := rfl
@[simp] theorem putResult_obuf : (putResult r s).obuf = s.obuf := rfl
@[simp] theorem putResult_ord : (putResult r s).ord = s.ord := rfl
@[simp] theorem putResult_lst : (putResult r s).lst = s.lst := rfl
@[simp] theorem putResult_cnt : (putResult r s).cnt = s.cnt := rfl
@[simp] theorem putResult_moves : (putResult r s).moves = s.moves := rfl
@[simp] theorem putResult_port : (putResult r s).port = s.port := rfl

end

section
variable (l : List Byte) (s : State)

@[simp] theorem putList_cmd : (putList l s).cmd = s.cmd := rfl
@[simp] theorem putList_status : (putList l s).status = s.status := rfl
@[simp] theorem putList_ie : (putList l s).ie = s.ie := rfl
@[simp] theorem putList_len : (putList l s).len = s.len := rfl
@[simp] theorem putList_origin : (putList l s).origin = s.origin := rfl
@[simp] theorem putList_arg0 : (putList l s).arg0 = s.arg0 := rfl
@[simp] theorem putList_arg1 : (putList l s).arg1 = s.arg1 := rfl
@[simp] theorem putList_result : (putList l s).result = s.result := rfl
@[simp] theorem putList_olen : (putList l s).olen = s.olen := rfl
@[simp] theorem putList_errinfo : (putList l s).errinfo = s.errinfo := rfl
@[simp] theorem putList_errpos : (putList l s).errpos = s.errpos := rfl
@[simp] theorem putList_cap : (putList l s).cap = s.cap := rfl
@[simp] theorem putList_alpha : (putList l s).alpha = s.alpha := rfl
@[simp] theorem putList_ibuf : (putList l s).ibuf = s.ibuf := rfl
@[simp] theorem putList_obuf : (putList l s).obuf = s.obuf := rfl
@[simp] theorem putList_ord : (putList l s).ord = s.ord := rfl
@[simp] theorem putList_lst : (putList l s).lst = l := rfl
@[simp] theorem putList_cnt : (putList l s).cnt = s.cnt := rfl
@[simp] theorem putList_moves : (putList l s).moves = s.moves := rfl
@[simp] theorem putList_port : (putList l s).port = s.port := rfl

end

section
variable (c : List Nat) (s : State)

@[simp] theorem putCounters_cmd : (putCounters c s).cmd = s.cmd := rfl
@[simp] theorem putCounters_status : (putCounters c s).status = s.status := rfl
@[simp] theorem putCounters_ie : (putCounters c s).ie = s.ie := rfl
@[simp] theorem putCounters_len : (putCounters c s).len = s.len := rfl
@[simp] theorem putCounters_origin : (putCounters c s).origin = s.origin := rfl
@[simp] theorem putCounters_arg0 : (putCounters c s).arg0 = s.arg0 := rfl
@[simp] theorem putCounters_arg1 : (putCounters c s).arg1 = s.arg1 := rfl
@[simp] theorem putCounters_result : (putCounters c s).result = s.result := rfl
@[simp] theorem putCounters_olen : (putCounters c s).olen = s.olen := rfl
@[simp] theorem putCounters_errinfo : (putCounters c s).errinfo = s.errinfo := rfl
@[simp] theorem putCounters_errpos : (putCounters c s).errpos = s.errpos := rfl
@[simp] theorem putCounters_cap : (putCounters c s).cap = s.cap := rfl
@[simp] theorem putCounters_alpha : (putCounters c s).alpha = s.alpha := rfl
@[simp] theorem putCounters_ibuf : (putCounters c s).ibuf = s.ibuf := rfl
@[simp] theorem putCounters_obuf : (putCounters c s).obuf = s.obuf := rfl
@[simp] theorem putCounters_ord : (putCounters c s).ord = s.ord := rfl
@[simp] theorem putCounters_lst : (putCounters c s).lst = s.lst := rfl
@[simp] theorem putCounters_cnt : (putCounters c s).cnt = c := rfl
@[simp] theorem putCounters_moves : (putCounters c s).moves = s.moves := rfl
@[simp] theorem putCounters_port : (putCounters c s).port = s.port := rfl

end

end Sys2Proof.Machine
end

