-- ==== Sys2Proof/Laws/Commands.lean ====
section
/-! SUPPORT. What the shared operations of the commands can do, each said once. -/

namespace Sys2Proof.Machine

variable {α β : Type}

/-! ## Checks -/

theorem Check.bind_eq_ok_iff (c : Check α) (k : α → Check β) (b : β) :
    c.bind k = .ok b ↔ ∃ a, c = .ok a ∧ k a = .ok b := by
  cases c <;> simp [Check.bind]

theorem Check.bind_eq_raise_iff (c : Check α) (k : α → Check β) (e : ErrCode) (i p : Word) :
    c.bind k = .raise e i p ↔ c = .raise e i p ∨ ∃ a, c = .ok a ∧ k a = .raise e i p := by
  cases c <;> simp [Check.bind]

theorem Check.bind_eq_fault_iff (c : Check α) (k : α → Check β) (f : Fault) :
    c.bind k = .fault f ↔ c = .fault f ∨ ∃ a, c = .ok a ∧ k a = .fault f := by
  cases c <;> simp [Check.bind]

@[simp] theorem Check.ok_bind (a : α) (k : α → Check β) : (Check.ok a).bind k = k a := rfl

@[simp] theorem Check.raise_bind (e : ErrCode) (i p : Word) (k : α → Check β) :
    (Check.raise e i p : Check α).bind k = .raise e i p := rfl

@[simp] theorem Check.fault_bind (f : Fault) (k : α → Check β) :
    (Check.fault f : Check α).bind k = .fault f := rfl

@[simp] theorem raiseIf_true (e : ErrCode) (i p : Word) : raiseIf true e i p = .raise e i p := rfl

@[simp] theorem raiseIf_false (e : ErrCode) (i p : Word) : raiseIf false e i p = .ok () := rfl

theorem raiseIf_eq_ok_iff (bad : Bool) (e : ErrCode) (i p : Word) (u : Unit) :
    raiseIf bad e i p = .ok u ↔ bad = false := by
  cases bad <;> simp

theorem raiseIf_eq_raise_iff (bad : Bool) (e e' : ErrCode) (i i' p p' : Word) :
    raiseIf bad e i p = .raise e' i' p' ↔ bad = true ∧ e = e' ∧ i = i' ∧ p = p' := by
  cases bad <;> simp

theorem raiseIf_ne_fault (bad : Bool) (e : ErrCode) (i p : Word) (f : Fault) :
    raiseIf bad e i p ≠ .fault f := by
  cases bad <;> simp

/-- A command's read succeeds exactly when the elements stand there. -/
theorem memRead_eq_ok_iff (sp : Space) (m : List (Nat × α)) (a n : Nat) (vs : List α) :
    memRead sp m a n = .ok vs ↔ vs.length = n ∧ Memory.holds m a vs := by
  rw [← Memory.readMany_eq_ok_iff, memRead]
  split <;> simp_all

/-- A command's read faults exactly at the lowest unwritten element. -/
theorem memRead_eq_fault_iff (sp : Space) (m : List (Nat × α)) (a n : Nat) (f : Fault) :
    memRead sp m a n = .fault f ↔ ∃ i, f = .unwritten sp i ∧ Memory.firstUnwritten m a n i := by
  simp only [← Memory.readMany_eq_error_iff, memRead]
  cases Memory.readMany m a n <;> simp [eq_comm]

theorem memRead_ne_raise (sp : Space) (m : List (Nat × α)) (a n : Nat) (e : ErrCode) (i p : Word) :
    memRead sp m a n ≠ .raise e i p := by
  rw [memRead]
  split <;> simp

theorem checkLen_of_le {cap : Nat} {s : State} (h : s.len.toNat ≤ cap) :
    checkLen cap s = .ok () := by
  simp [checkLen, Nat.not_lt.2 h]

theorem checkLen_of_lt {cap : Nat} {s : State} (h : cap < s.len.toNat) :
    checkLen cap s = .raise .lenRange s.len 0#32 := by
  simp [checkLen, h]

/-! ## Completions -/

/-- A command answers a next state by committing or by raising an error. -/
theorem runCommand_eq_next_iff (c : Check α) (k : α → State → State) (s t : State) :
    runCommand c k s = .next t ↔
      (∃ a, c = .ok a ∧ t = complete (k a s)) ∨
      ∃ e i p, c = .raise e i p ∧ t = raiseError e i p s := by
  cases c <;> simp [runCommand, eq_comm]

theorem runCommand_eq_fault_iff (c : Check α) (k : α → State → State) (s : State) (f : Fault) :
    runCommand c k s = .fault f ↔ c = .fault f := by
  cases c <;> simp [runCommand]

theorem runCommand_ne_refused (c : Check α) (k : α → State → State) (s : State) (r : Refusal) :
    runCommand c k s ≠ .refused r := by
  cases c <;> simp [runCommand]

@[simp] theorem runCommand_ok (a : α) (k : α → State → State) (s : State) :
    runCommand (.ok a) k s = .next (complete (k a s)) := rfl

@[simp] theorem runCommand_raise (e : ErrCode) (i p : Word) (k : α → State → State) (s : State) :
    runCommand (.raise e i p : Check α) k s = .next (raiseError e i p s) := rfl

@[simp] theorem runCommand_fault (f : Fault) (k : α → State → State) (s : State) :
    runCommand (.fault f : Check α) k s = .fault f := rfl

/-- A raised error, in the terms of the statements. -/
theorem next_raiseError (e : ErrCode) (i p : Word) (s : State) :
    (Host.Outcome.next (raiseError e i p s) : Result) = s.errorOutcome e.number i p := rfl

theorem ErrCode.number_ne_zero (e : ErrCode) : e.number ≠ 0#4 := by cases e <;> decide

theorem ErrCode.number_le (e : ErrCode) : e.number.toNat ≤ 7 := by cases e <;> decide

/-! ## The operands -/

theorem readInput_eq_ok_iff (a n : Nat) (s : State) (vs : List Byte) :
    readInput a n s = .ok vs ↔ vs.length = n ∧ Memory.holds s.ibuf a vs :=
  memRead_eq_ok_iff _ _ _ _ _

theorem readInput_of_inputIs {s : State} {b : List Byte} (h : s.inputIs b) :
    readInput 0 s.len.toNat s = .ok b :=
  (readInput_eq_ok_iff _ _ _ _).2 h

theorem readInput_of_firstUnwritten {s : State} {a n i : Nat}
    (h : Memory.firstUnwritten s.ibuf a n i) :
    readInput a n s = .fault (.unwritten .ibuf i) :=
  (memRead_eq_fault_iff _ _ _ _ _).2 ⟨i, rfl, h⟩

theorem readBlock_of_inputIs {s : State} {b : List Byte} (hn : s.len.toNat ≤ s.nmax)
    (h : s.inputIs b) : readBlock s = .ok b := by
  rw [readBlock, checkLen_of_le hn, Check.ok_bind, readInput_of_inputIs h]

theorem readStream_of_inputIs {s : State} {b : List Byte} (hn : s.len.toNat ≤ s.bufsz)
    (h : s.inputIs b) : readStream s = .ok b := by
  rw [readStream, checkLen_of_le hn, Check.ok_bind, readInput_of_inputIs h]

theorem checkLen_eq_ok_iff (cap : Nat) (s : State) (u : Unit) :
    checkLen cap s = .ok u ↔ s.len.toNat ≤ cap := by
  simp [checkLen, raiseIf_eq_ok_iff]

theorem readBlock_eq_ok_iff (s : State) (b : List Byte) :
    readBlock s = .ok b ↔ s.len.toNat ≤ s.nmax ∧ s.inputIs b := by
  simp [readBlock, Check.bind_eq_ok_iff, checkLen_eq_ok_iff, readInput_eq_ok_iff]

theorem readStream_eq_ok_iff (s : State) (b : List Byte) :
    readStream s = .ok b ↔ s.len.toNat ≤ s.bufsz ∧ s.inputIs b := by
  simp [readStream, Check.bind_eq_ok_iff, checkLen_eq_ok_iff, readInput_eq_ok_iff]

/-- Two sequences that stand at the same place and have the same length are the same. -/
theorem Memory.holds_unique {m : List (Nat × α)} {a : Nat} {xs ys : List α}
    (hx : Memory.holds m a xs) (hy : Memory.holds m a ys) (h : xs.length = ys.length) :
    xs = ys := by
  refine List.ext_getElem? fun i => ?_
  by_cases hi : i < xs.length
  · rw [← hx i hi, hy i (h ▸ hi)]
  · rw [List.getElem?_eq_none (by omega), List.getElem?_eq_none (by omega)]

theorem State.inputIs_unique {s : State} {b c : List Byte} (hb : s.inputIs b) (hc : s.inputIs c) :
    b = c :=
  Memory.holds_unique hb.2 hc.2 (hb.1.trans hc.1.symm)

/-- The four header bytes give their rank back (20_memory R62). -/
theorem headerRank_headerBytes (r : Word) : headerRank (headerBytes r) = r := by
  apply BitVec.eq_of_getLsbD_eq
  intro i hi
  simp only [headerBytes, headerRank, BitVec.getLsbD_append, BitVec.getLsbD_extractLsb']
  by_cases h1 : i < 8
  · simp [h1]
  by_cases h2 : i - 8 < 8
  · simp [h1, h2, show 8 + (i - 8) = i by omega]
  by_cases h3 : i - 8 - 8 < 8
  · simp [h1, h2, h3, show 16 + (i - 8 - 8) = i by omega]
  · simp [h1, h2, h3, show 24 + (i - 8 - 8 - 8) = i by omega, show i - 8 - 8 - 8 < 8 by omega]

end Sys2Proof.Machine
end

