-- ==== Sys2Proof/Laws/Functions.lean ====
section
/-! SUPPORT. Lengths and shapes of what the three units compute. -/

namespace Sys2Proof.Machine

/-! ## The suffix sorter -/

@[simp] theorem rotationOf_length (b : List Byte) (i : Nat) : (rotationOf b i).length = b.length := by
  simp [rotationOf]

theorem rotationOf_getElem? (b : List Byte) (i k : Nat) (h : k < b.length) :
    (rotationOf b i)[k]? = some (cyclicAt b (i + k)) := by
  simp [rotationOf, h]

@[simp] theorem cyclicAt_mod (b : List Byte) (i : Nat) :
    cyclicAt b (i % b.length) = cyclicAt b i := by
  simp [cyclicAt]

theorem sortOrder_perm (b : List Byte) : (sortOrder b).Perm (List.range b.length) :=
  List.perm_insertionSort _ _

@[simp] theorem sortOrder_length (b : List Byte) : (sortOrder b).length = b.length := by
  simpa using (sortOrder_perm b).length_eq

theorem mem_sortOrder {b : List Byte} {i : Nat} : i ∈ sortOrder b ↔ i < b.length := by
  rw [(sortOrder_perm b).mem_iff, List.mem_range]

theorem sortOrder_nodup (b : List Byte) : (sortOrder b).Nodup :=
  (sortOrder_perm b).nodup_iff.2 List.nodup_range

@[simp] theorem sortOrder_nil : sortOrder [] = [] := rfl

/-! ## The BWT mapper -/

@[simp] theorem transform_length (b : List Byte) : (transform b).length = b.length := by
  simp [transform]

theorem originRank_lt {b : List Byte} (h : b ≠ []) : originRank b < b.length := by
  rw [originRank, ← sortOrder_length b]
  exact List.idxOf_lt_length_iff.2 (mem_sortOrder.2 (List.length_pos_iff.2 h))

@[simp] theorem bumpCounter_length (cnt : List Nat) (v : Byte) :
    (bumpCounter cnt v).length = cnt.length := by
  simp [bumpCounter]

theorem foldl_bumpCounter_length (t : List Byte) (cnt : List Nat) :
    (t.foldl bumpCounter cnt).length = cnt.length := by
  induction t generalizing cnt with
  | nil => rfl
  | cons v t ih => simp [ih]

@[simp] theorem countSymbols_length (t : List Byte) : (countSymbols t).length = 256 := by
  rw [countSymbols, foldl_bumpCounter_length, List.length_replicate]

@[simp] theorem startRanks_length (start : Nat) (cs : List Nat) :
    (startRanks start cs).length = cs.length := by
  induction cs generalizing start with
  | nil => rfl
  | cons c cs ih => simp [startRanks, ih]

theorem placeSymbols_length (i : Nat) (t : List Byte) (p : List Nat × List Nat) :
    (placeSymbols i t p).1.length = p.1.length ∧ (placeSymbols i t p).2.length = p.2.length := by
  induction t generalizing i p with
  | nil => exact ⟨rfl, rfl⟩
  | cons v t ih => simpa [placeSymbols] using ih (i + 1) (p.1.set (p.2.getD v.toNat 0) i, bumpCounter p.2 v)

@[simp] theorem successors_length (t : List Byte) : (successors t).length = t.length := by
  simp [successors, countingSort, placeSymbols_length]

@[simp] theorem countingSort_counters_length (t : List Byte) :
    (countingSort t).2.length = 256 := by
  simp [countingSort, placeSymbols_length]

@[simp] theorem walk_length (next : List Nat) (t : List Byte) (k pos : Nat) :
    (walk next t k pos).length = k := by
  induction k generalizing pos with
  | zero => rfl
  | succ k ih => simp [walk, ih]

@[simp] theorem inverseBwt_length (r : Nat) (t : List Byte) :
    (inverseBwt r t).length = t.length := by
  simp [inverseBwt]

/-- BWTD of an empty transform writes OLEN alone. -/
theorem commitBwtd_nil (r : Word) (s : State) : commitBwtd r [] s = putOutput [] s := rfl

/-- BWTD of a transform that is not empty writes ORD, OBUF, OLEN and the counters. -/
theorem commitBwtd_of_pos {t : List Byte} (h : t.length ≠ 0) (r : Word) (s : State) :
    commitBwtd r t s =
      putOutput (inverseBwt r.toNat t)
        (putOrder (successors t) (putCounters (countingSort t).2 s)) := by
  rw [commitBwtd, if_neg h]

/-! ## The Move-to-Front unit -/

@[simp] theorem identityList_length (n : Nat) : (identityList n).length = n := by
  simp [identityList]

theorem moveToFront_of_getElem? {l : List Byte} {k : Nat} {x : Byte} (h : l[k]? = some x) :
    moveToFront l k = x :: (l.take k ++ l.drop (k + 1)) := by
  simp [moveToFront, h]

@[simp] theorem mtfEncode_length (l x : List Byte) : (mtfEncode l x).1.length = x.length := by
  induction x generalizing l with
  | nil => rfl
  | cons v x ih => simp [mtfEncode, ih]

@[simp] theorem mtfDecode_length (l x : List Byte) : (mtfDecode l x).1.length = x.length := by
  induction x generalizing l with
  | nil => rfl
  | cons v x ih => simp [mtfDecode, ih]

end Sys2Proof.Machine
end

