-- ==== Sys2Proof/Laws/PerInstr.lean ====
section
/-! SUPPORT. The round trip of each command's word, one lemma a constructor. -/

namespace Sys2Proof.Laws.RoundTrip

/-- Decoding the word of the command gives the command. -/
def Statement (i : Instr) : Prop := decode (encode i) = .legal i

theorem nop : Statement .nop := by rfl
theorem sort : Statement .sort := by rfl
theorem cmpr : Statement .cmpr := by rfl
theorem bwte : Statement .bwte := by rfl
theorem bwteS : Statement .bwteS := by rfl
theorem bwtd : Statement .bwtd := by rfl
theorem bwtdS : Statement .bwtdS := by rfl
theorem mtfe : Statement .mtfe := by rfl
theorem mtfeC : Statement .mtfeC := by rfl
theorem mtfd : Statement .mtfd := by rfl
theorem mtfdC : Statement .mtfdC := by rfl
theorem mtfi : Statement .mtfi := by rfl
theorem move : Statement .move := by rfl

end Sys2Proof.Laws.RoundTrip
end

