-- ==== Sys2Proof/Laws/Step.lean ====
section
/-! SUPPORT. What the completion of a command, a turn and a host transaction can do, and the shape of
the state after reset. -/

namespace Sys2Proof.Machine

/-! ## The completion of a command -/

/-- The fields that no command but its completion writes (20_memory R68). -/
def State.sameOutside (t s : State) : Prop :=
  t.status = s.status ∧ t.errinfo = s.errinfo ∧ t.errpos = s.errpos ∧ t.cmd = s.cmd ∧ t.ie = s.ie ∧
  t.arg0 = s.arg0 ∧ t.arg1 = s.arg1 ∧ t.cap = s.cap ∧ t.alpha = s.alpha ∧ t.moves = s.moves ∧
  t.port = s.port

theorem runCommand_cases {α : Type} {c : Check α} {k : α → State → State} {s t : State}
    (hk : ∀ a, (k a s).sameOutside s) (h : runCommand c k s = .next t) :
    (∃ e info pos, t = raiseError e info pos s) ∨ ∃ u, t = complete u ∧ u.sameOutside s := by
  rcases (runCommand_eq_next_iff _ _ _ _).1 h with ⟨a, -, rfl⟩ | ⟨e, i, p, -, rfl⟩
  · exact .inr ⟨_, rfl, hk a⟩
  · exact .inl ⟨e, i, p, rfl⟩

theorem commitBwtd_sameOutside (r : Word) (t : List Byte) (s : State) :
    (commitBwtd r t s).sameOutside s := by
  rw [commitBwtd]
  split <;> simp [State.sameOutside]

/-- A command that answers a next state has raised one error, or has completed after a commit that
leaves every field outside the write columns of the access table. -/
theorem exec_eq_next_cases {i : Instr} {s t : State} (h : exec i s = .next t) :
    (∃ e info pos, t = raiseError e info pos s) ∨ ∃ u, t = complete u ∧ u.sameOutside s := by
  cases i <;>
    simp only [exec, execNop, execSort, execCmpr, execBwte, execBwteS, execBwtd, execBwtdS, execMtfe,
      execMtfeC, execMtfd, execMtfdC, execMtfi, execMove] at h <;>
    refine runCommand_cases (fun a => ?_) h
  case bwtd => exact commitBwtd_sameOutside _ _ _
  case bwtdS => exact commitBwtd_sameOutside _ _ _
  all_goals simp [State.sameOutside, commitBwte, commitMtf]

theorem exec_ne_refused (i : Instr) (s : State) (r : Refusal) : exec i s ≠ .refused r := by
  cases i <;>
    simp only [exec, execNop, execSort, execCmpr, execBwte, execBwteS, execBwtd, execBwtdS, execMtfe,
      execMtfeC, execMtfd, execMtfdC, execMtfi, execMove] <;>
    exact runCommand_ne_refused _ _ _ _

/-! ## Turns -/

variable {s : State} {rest : List Move}

theorem step_of_nil (h : s.moves = []) : step s = engineStep s := by
  simp [step, h]

theorem step_of_engine (h : s.moves = .engine :: rest) :
    step s = engineStep { s with moves := rest } := by
  simp [step, h]

theorem step_of_host {t : Transaction} (h : s.moves = .host t :: rest) :
    step s = transact t { s with moves := rest } := by
  simp [step, h]

theorem step_of_reset (h : s.moves = .reset :: rest) :
    step s = .next (resetMachine { s with moves := rest }) := by
  simp [step, h]

theorem engineStep_of_idle (h : s.status.busy = false) : engineStep s = .next s := by
  simp [engineStep, h]

theorem engineStep_of_legal {i : Instr} (hb : s.status.busy = true) (hi : decode s.cmd = .legal i) :
    engineStep s = exec i s := by
  simp [engineStep, hb, fetch, hi]

theorem engineStep_of_illegal {why : Illegal} (hb : s.status.busy = true)
    (hi : decode s.cmd = .illegal why) : engineStep s = .next (completeIllegal s) := by
  simp [engineStep, hb, fetch, hi]

/-! ## Host transactions -/

/-- A STATUS write, field by field. -/
theorem Status.writeOneToClear_eq (data : Word) (st : Status) :
    st.writeOneToClear data =
      { busy := st.busy
        done := st.done && !data.getLsbD 1
        err := st.err && !data.getLsbD 2
        haz := st.haz && !data.getLsbD 3
        errcode := if data.getLsbD 2 then 0#4 else st.errcode } := by
  unfold Status.writeOneToClear acknowledgeError
  cases data.getLsbD 1 <;> cases data.getLsbD 2 <;> cases data.getLsbD 3 <;> simp

/-- The space numbers of the mapped spaces. -/
theorem Space.ofNumber_eq_some_iff (n : BitVec 3) (sp : Space) :
    Space.ofNumber n = some sp ↔
      (n, sp) ∈ [(0#3, Space.csr), (1#3, .ibuf), (2#3, .obuf), (3#3, .ord), (4#3, .lst)] := by
  revert n sp
  have h (n : BitVec 3) : ∀ sp ∈ [Space.csr, .ibuf, .obuf, .ord, .lst],
      (Space.ofNumber n = some sp ↔
        (n, sp) ∈ [(0#3, Space.csr), (1#3, .ibuf), (2#3, .obuf), (3#3, .ord), (4#3, .lst)]) := by
    revert n
    decide
  exact fun n sp => h n sp (by cases sp <;> decide)

/-- A transaction reaches a mapped space exactly when its index is in range. -/
theorem reach_eq_some_iff (space : BitVec 3) (index : Word) (sp : Space) :
    reach space index s = some sp ↔ Space.ofNumber space = some sp ∧ index.toNat < sp.size s := by
  unfold reach
  cases Space.ofNumber space with
  | none => simp
  | some q =>
    by_cases h : index.toNat < q.size s
    · simp only [if_pos h, Option.some.injEq]
      exact ⟨fun e => ⟨e, e ▸ h⟩, And.left⟩
    · simp only [if_neg h, Option.some.injEq]
      exact ⟨fun e => (by cases e), fun e => absurd (e.1 ▸ e.2) h⟩

theorem transact_write_eq_next_iff (space : BitVec 3) (index data : Word) (t : State) :
    transact (.write space index data) s = .next t ↔
      ∃ sp, reach space index s = some sp ∧
        t = { hostWriteAt sp index.toNat data s with port := .okay } := by
  simp only [transact]
  cases reach space index s <;> simp [eq_comm]

theorem Csr.ofIndex_eq_none_iff (i : Nat) : Csr.ofIndex i = none ↔ 14 ≤ i := by
  unfold Csr.ofIndex
  split <;> simp_all
  omega

/-- A host read that answers changes the port alone. -/
theorem hostReadAt_eq_next {sp : Space} {i : Nat} {t : State} (h : hostReadAt sp i s = .next t) :
    ∃ v, t = { s with port := .data v } := by
  cases sp <;> simp only [hostReadAt, readCsr, answerElement] at h
  all_goals
    repeat' split at h
  all_goals first
    | cases h
      exact ⟨_, rfl⟩
    | cases h

theorem transact_read_eq_next {space : BitVec 3} {index : Word} {t : State}
    (h : transact (.read space index) s = .next t) : ∃ v, t = { s with port := .data v } := by
  simp only [transact] at h
  split at h
  · exact hostReadAt_eq_next h
  · cases h

/-! ## Reset -/

theorem Config.nmax_le : Config.nmax ≤ 2 ^ 31 := by
  have := Config.nmaxLessOne.isLt
  unfold Config.nmax
  omega

theorem State.reset_nmax : State.reset.nmax = Config.nmax := by
  have := Config.nmax_le
  show (BitVec.ofNat 32 Config.nmax).toNat = Config.nmax
  rw [BitVec.toNat_ofNat]
  omega

/-- The storage after reset is in canonical form: nothing is listed. -/
theorem State.reset_storage_wf :
    Memory.wf State.reset.ibuf ∧ Memory.wf State.reset.obuf ∧ Memory.wf State.reset.ord :=
  ⟨List.Pairwise.nil, List.Pairwise.nil, List.Pairwise.nil⟩

end Sys2Proof.Machine
end

