-- ==== Sys2Proof/Tests/Slice0.lean ====
section
/-! SUPPORT. The model's own tests, against vectors of spec/95_test_vectors.md (their ids in the
comments), and for each obligation with hypotheses a state that meets them all. -/

open Sys2Proof Sys2Proof.Machine

namespace Sys2Proof.Tests

/-! ## Helpers: a part with NMAX = 16, so BUFSZ = 20, at ALPHA = 256 and at the toy ALPHA = 3 -/

def idle : State := State.resetFor 16#32 256#32

def toy : State := State.resetFor 16#32 3#32

/-- The bytes written to IBUF from index 0 on, and their number to LEN. -/
def given (bs : List Byte) (s : State) : State :=
  { s with ibuf := Memory.writeMany [] 0 bs, len := BitVec.ofNat 32 bs.length }

/-- The same with OBUF and OLEN. -/
def holding (bs : List Byte) (s : State) : State :=
  { s with obuf := Memory.writeMany [] 0 bs, olen := BitVec.ofNat 32 bs.length }

def withLen (n : Word) (s : State) : State := { s with len := n }

def withOrigin (r : Word) (s : State) : State := { s with origin := r }

def withArgs (i j : Word) (s : State) : State := { s with arg0 := i, arg1 := j }

def withMoves (ms : List Move) (s : State) : State := { s with moves := ms }

def reading (space : BitVec 3) (index : Word) (s : State) : State :=
  withMoves [.host (.read space index)] s

def writing (space : BitVec 3) (index data : Word) (s : State) : State :=
  withMoves [.host (.write space index data)] s

def after (r : Result) : Option State :=
  match r with
  | .next t => some t
  | .fault _ | .refused _ => none

def stopped (r : Result) : Option Fault :=
  match r with
  | .fault f => some f
  | .next _ | .refused _ => none

def elems {α : Type} (m : List (Nat × α)) : List α := m.map Prod.snd

/-- What an error leaves to see: STATUS, ERRINFO, ERRPOS. -/
def report (t : State) : Word × Word × Word := (t.status.toWord, t.errinfo, t.errpos)

def banana : List Byte := [0x42#8, 0x41#8, 0x4E#8, 0x41#8, 0x4E#8, 0x41#8]

def nnbaaa : List Byte := [0x4E#8, 0x4E#8, 0x42#8, 0x41#8, 0x41#8, 0x41#8]

def abab : List Byte := [0x41#8, 0x42#8, 0x41#8, 0x42#8]

def ones (n : Nat) : List Byte := List.replicate n 0x41#8

/-! ## WellFormed: each check refuses an ill-formed term -/

theorem test_wf_reserved : (Cmd32.mk 0x1#4 false false 0x2000000#26).wf = false := by decide
theorem test_wf_op : (Cmd32.mk 0x9#4 false false 0#26).wf = false := by decide
theorem test_wf_cont : (Cmd32.mk 0x1#4 true false 0#26).wf = false := by decide
theorem test_wf_ser : (Cmd32.mk 0x5#4 false true 0#26).wf = false := by decide
theorem test_wf_instr (i : Instr) : i.fields.wf = true := by cases i <;> decide

/-! ## Decode: each word bit by bit, fields reserved 31:6, S 5, C 4, OP 3:0 (30_encoding R81, R84) -/

theorem test_decode_nop : decode 0b00000000000000000000000000000000#32 = .legal .nop := by decide
theorem test_decode_sort : decode 0b00000000000000000000000000000001#32 = .legal .sort := by decide
theorem test_decode_cmpr : decode 0b00000000000000000000000000000010#32 = .legal .cmpr := by decide
theorem test_decode_bwte : decode 0b00000000000000000000000000000011#32 = .legal .bwte := by decide
theorem test_decode_bwteS : decode 0b00000000000000000000000000100011#32 = .legal .bwteS := by decide
theorem test_decode_bwtd : decode 0b00000000000000000000000000000100#32 = .legal .bwtd := by decide
theorem test_decode_bwtdS : decode 0b00000000000000000000000000100100#32 = .legal .bwtdS := by decide
theorem test_decode_mtfe : decode 0b00000000000000000000000000000101#32 = .legal .mtfe := by decide
theorem test_decode_mtfeC : decode 0b00000000000000000000000000010101#32 = .legal .mtfeC := by decide
theorem test_decode_mtfd : decode 0b00000000000000000000000000000110#32 = .legal .mtfd := by decide
theorem test_decode_mtfdC : decode 0b00000000000000000000000000010110#32 = .legal .mtfdC := by decide
theorem test_decode_mtfi : decode 0b00000000000000000000000000000111#32 = .legal .mtfi := by decide
theorem test_decode_move : decode 0b00000000000000000000000000001000#32 = .legal .move := by decide

/-- Words of the V-ILL table, one for each test of the decoder, at the edges of the fields. -/
theorem test_decode_illegal :
    decode 0x00000009#32 = .illegal .reservedOp ∧ decode 0x0000000F#32 = .illegal .reservedOp ∧
    decode 0x00000040#32 = .illegal .reservedBits ∧ decode 0x80000003#32 = .illegal .reservedBits ∧
    decode 0x00000013#32 = .illegal .contNotTaken ∧ decode 0x00000025#32 = .illegal .serNotTaken ∧
    decode 0x00000010#32 = .illegal .contNotTaken ∧ decode 0x00000027#32 = .illegal .serNotTaken := by
  decide

theorem test_tableWord :
    decodeTableWord 32 0x24 = some .bwtdS ∧ decodeTableWord 32 0x09 = none := by decide

/-- The host's word is what the next step runs. -/
theorem test_withFetchWord :
    (after (step (State.withFetchWord idle 32 0x07))).map (fun t => (t.cmd, t.status.toWord)) =
      some (0x00000007#32, 0x00000002#32) := by decide

/-! ## Commands -/

/-- V-NOP-1. -/
theorem test_nop :
    (after (exec .nop (issue 0#32 idle))).map (fun t => t.status.toWord) = some 0x00000002#32 := by
  decide

/-- V-SORT-1. -/
theorem test_sort_banana :
    (after (exec .sort (given banana idle))).map (fun t => elems t.ord) =
      some [5#32, 3#32, 1#32, 0#32, 4#32, 2#32] := by decide

/-- V-SORT-6: ties by start index. -/
theorem test_sort_ties :
    (after (exec .sort (given abab idle))).map (fun t => elems t.ord) =
      some [0#32, 2#32, 1#32, 3#32] := by decide

/-- V-CMPR-9: bytes are unsigned. -/
theorem test_cmpr_unsigned :
    (after (exec .cmpr (withArgs 1#32 3#32 (given [0x00#8, 0xFF#8, 0x80#8, 0x7F#8] idle)))).map
      (fun t => t.result) = some 0x00000001#32 := by decide

/-- V-CMPR-15, with the block of V-CMPR-6: ARG0 is checked first. -/
theorem test_cmpr_args :
    (after (exec .cmpr (withArgs 4#32 4#32 (given abab idle)))).map report =
      some (0x00000506#32, 4#32, 0#32) := by decide

/-- V-BWTE-2. -/
theorem test_bwte_banana :
    (after (exec .bwte (given banana idle))).map (fun t => (t.origin, t.olen, elems t.obuf)) =
      some (3#32, 6#32, nnbaaa) := by decide

/-- V-BWTE-4: the empty block. -/
theorem test_bwte_empty :
    (after (exec .bwte (given [] idle))).map (fun t => (t.origin, t.olen, t.obuf)) =
      some (0#32, 0#32, []) := by decide

/-- V-BWTE-3. -/
theorem test_bwteS_banana :
    (after (exec .bwteS (given banana idle))).map (fun t => (t.olen, elems t.obuf)) =
      some (10#32, [0x00#8, 0x00#8, 0x00#8, 0x03#8] ++ nnbaaa) := by decide

/-- V-BWTE-11: NMAX = 16, LEN = 17. -/
theorem test_bwteS_len :
    (after (exec .bwteS (withLen 17#32 idle))).map report = some (0x00000206#32, 17#32, 0#32) := by
  decide

/-- V-BWTD-2. -/
theorem test_bwtd_banana :
    (after (exec .bwtd (withOrigin 3#32 (given nnbaaa idle)))).map
      (fun t => (elems t.ord, elems t.obuf)) =
      some ([3#32, 4#32, 5#32, 2#32, 0#32, 1#32], banana) := by decide

/-- V-BWTD-E9: ORIGIN is checked before IBUF is read. -/
theorem test_bwtd_origin_first :
    (after (exec .bwtd (withOrigin 6#32 (withLen 6#32 idle)))).map report =
      some (0x00000406#32, 6#32, 0#32) := by decide

/-- V-BWTD-6. -/
theorem test_bwtdS_banana :
    (after (exec .bwtdS (given ([0x00#8, 0x00#8, 0x00#8, 0x03#8] ++ nnbaaa) idle))).map
      (fun t => (t.origin, t.olen, elems t.obuf)) = some (3#32, 6#32, banana) := by decide

/-- V-BWTD-9: n = 0 writes the header's rank back. -/
theorem test_bwtdS_header_only :
    (after (exec .bwtdS (given [0x00#8, 0x00#8, 0x01#8, 0x00#8] idle))).map
      (fun t => (t.origin, t.olen, t.ord)) = some (256#32, 0#32, []) := by decide

/-- W1, the source's toy example. -/
theorem test_mtfe_toy :
    (after (exec .mtfe (given [2#8, 2#8, 1#8, 1#8, 2#8] toy))).map
      (fun t => (elems t.obuf, t.lst)) = some ([2#8, 0#8, 2#8, 0#8, 1#8], [2#8, 1#8, 0#8]) := by
  decide

/-- V-MTFE-1. -/
theorem test_mtfe_transform :
    (after (exec .mtfe (given nnbaaa idle))).map (fun t => (elems t.obuf, t.lst.take 4)) =
      some ([0x4E#8, 0x00#8, 0x43#8, 0x43#8, 0x00#8, 0x00#8], [0x41#8, 0x42#8, 0x4E#8, 0x00#8]) := by
  decide

/-- W1 from its third step on: the list there is [2,0,1]. -/
theorem test_mtfeC_toy :
    (after (exec .mtfeC (given [1#8, 1#8, 2#8] { toy with lst := [2#8, 0#8, 1#8] }))).map
      (fun t => (elems t.obuf, t.lst)) = some ([2#8, 0#8, 1#8], [2#8, 1#8, 0#8]) := by decide

/-- W1 decoded. -/
theorem test_mtfd_toy :
    (after (exec .mtfd (given [2#8, 0#8, 2#8, 0#8, 1#8] toy))).map
      (fun t => (elems t.obuf, t.lst)) = some ([2#8, 2#8, 1#8, 1#8, 2#8], [2#8, 1#8, 0#8]) := by
  decide

/-- P5, lines 9 to 13. -/
theorem test_mtfdC_toy :
    (after (exec .mtfdC (given [0#8, 1#8] { toy with lst := [1#8, 2#8, 0#8] }))).map
      (fun t => (elems t.obuf, t.lst)) = some ([1#8, 2#8], [2#8, 1#8, 0#8]) := by decide

/-- 42_mtf R144. -/
theorem test_mtfi_toy :
    (after (exec .mtfi { toy with lst := [2#8, 1#8, 0#8] })).map (fun t => t.lst) =
      some [0#8, 1#8, 2#8] := by decide

/-- P1, lines 7 and 8. -/
theorem test_move :
    (after (exec .move (holding nnbaaa idle))).map (fun t => (t.len, elems t.ibuf)) =
      some (6#32, nnbaaa) := by decide

/-! ## Host port, hazards, reset -/

/-- V-RST-3 and V-PORT-1 to V-PORT-3. -/
theorem test_port_faults :
    stopped (step (reading 1#3 0#32 idle)) = some (.unwritten .ibuf 0) ∧
    stopped (step (reading 0#3 14#32 idle)) = some (.decerr 0#3 14#32) ∧
    stopped (step (reading 5#3 0#32 idle)) = some (.decerr 5#3 0#32) ∧
    stopped (step (reading 3#3 16#32 idle)) = some (.decerr 3#3 16#32) := by decide

/-- V-PORT-4: the last element of IBUF. -/
theorem test_port_write :
    (after (step (writing 1#3 19#32 0xAB#32 idle))).map (fun t => t.ibuf) = some [(19, 0xAB#8)] := by
  decide

/-- V-PORT-7. -/
theorem test_config_reserved :
    (after (step (writing 0#3 2#32 0xFFFFFFFF#32 idle))).map (fun t => configWord t.ie) =
      some 0x00000001#32 := by decide

/-- V-STS-1. -/
theorem test_status_clears_error :
    (after (step (writing 0#3 1#32 0x00000004#32
      { idle with status := ⟨false, true, true, false, 6#4⟩, errinfo := 3#32, errpos := 1#32 }))).map
      report = some (0x00000002#32, 3#32, 1#32) := by decide

/-- V-HAZ-1, its second write while BUSY. -/
theorem test_hazard :
    (after (step (writing 0#3 3#32 5#32 (issue 1#32 idle)))).map
      (fun t => (t.status.toWord, t.len)) = some (0x00000009#32, 0#32) := by decide

/-- V-HAZ-3. -/
theorem test_busy_read :
    stopped (step (reading 0#3 8#32 (issue 1#32 idle))) = some (.busyRead .csr 8) := by decide

/-- V-ILL-6 with an unfit LEN: reported before any operand check. -/
theorem test_illegal_word :
    (after (step (withLen 0xFFFFFFFF#32 (issue 0x00000013#32 idle)))).map report =
      some (0x00000106#32, 0x00000013#32, 0#32) := by decide

/-- A reset in the middle of a command abandons it (70_reset R191). -/
theorem test_reset :
    (after (step (withMoves [.reset] (withLen 5#32 (issue 1#32 idle))))).map
      (fun t => (t.cmd, t.status.toWord, t.len, t.cap)) =
      some (0#32, 0#32, 0#32, 16#32) := by decide

/-! ## Witnesses: for each obligation with hypotheses a state and operands that meet them, clause by
clause. A theorem's statement is the clause's hypotheses at those operands. -/

/-! ### The step -/

theorem witness_StepRunsTheDecodedCommand :
    ((issue 1#32 idle).status.busy = true ∧ decode (issue 1#32 idle).cmd = .legal .sort ∧
      (issue 1#32 idle).moves = []) ∧
    ((State.withFetchWord idle 32 0x24).status.busy = true ∧
      decode (State.withFetchWord idle 32 0x24).cmd = .legal .bwtdS ∧
      (State.withFetchWord idle 32 0x24).moves = .engine :: []) := by decide

theorem witness_IdleEngineTurnChangesNothing :
    (idle.status.busy = false ∧ idle.moves = []) ∧
    (withMoves [.engine, .reset] idle).status.busy = false ∧
    (withMoves [.engine, .reset] idle).moves = .engine :: [.reset] := by decide

/-- The engine's turn right after the write; with no moves listed; after a poll of STATUS. -/
theorem witness_IllegalWordIsIssuedAndReported :
    ((withMoves [.host (.write 0#3 0#32 0x13#32), .engine] idle).status.busy = false ∧
      decode 0x13#32 = .illegal .contNotTaken ∧
      (withMoves [.host (.write 0#3 0#32 0x13#32), .engine] idle).moves =
        .host (.write 0#3 0#32 0x13#32) :: .engine :: []) ∧
    ((issue 0xFFFFFFFF#32 idle).status.busy = true ∧
      decode (issue 0xFFFFFFFF#32 idle).cmd = .illegal .reservedBits ∧
      (issue 0xFFFFFFFF#32 idle).moves = []) ∧
    (after (step (withMoves [.host (.read 0#3 1#32), .engine] (issue 0x09#32 idle)))).map
      (fun t => (t.status.busy, decode t.cmd, t.moves)) =
      some (true, .illegal .reservedOp, [.engine]) := by decide

/-! ### Invariant -/

theorem idle_inv : idle.Inv where
  capRange := by decide
  alphaRange := by decide
  ibufForm := by decide
  obufForm := by decide
  ordForm := by decide
  lstPerm := .refl _
  cntSize := List.length_replicate
  olenRange := by decide
  outputWritten := by decide
  errcodeIff := by decide
  errcodeLegal := by decide
  busyClear := by decide
  resultLegal := by decide

/-- A state of the invariant with input, output and a list that is not the identity. -/
def used : State :=
  holding [0x01#8, 0x02#8] (given [2#8, 2#8, 1#8] { toy with lst := [2#8, 0#8, 1#8] })

theorem used_inv : used.Inv where
  capRange := by decide
  alphaRange := by decide
  ibufForm := by decide
  obufForm := by decide
  ordForm := by decide
  lstPerm := by decide
  cntSize := List.length_replicate
  olenRange := by decide
  outputWritten := by decide
  errcodeIff := by decide
  errcodeLegal := by decide
  busyClear := by decide
  resultLegal := by decide

/-- Both kinds of turn go on from a state of the invariant. -/
theorem witness_StepKeepsTheInvariant :
    idle.Inv ∧ (∃ t, step idle = .next t) ∧
    used.Inv ∧ ∃ t, step (writing 0#3 3#32 1#32 used) = .next t :=
  ⟨idle_inv, ⟨_, rfl⟩, used_inv, ⟨_, rfl⟩⟩

theorem witness_RecencyListStaysAPermutation :
    used.lst.Perm (identityList used.alpha.toNat) ∧
    used.lst ≠ identityList used.alpha.toNat ∧
    ∃ t, step (withMoves [.engine] (issue 7#32 used)) = .next t :=
  ⟨by decide, by decide, _, rfl⟩

/-! ### Control -/

theorem witness_MoveCopiesOutputToInput :
    (nnbaaa.length = (holding nnbaaa idle).olen.toNat ∧
      Memory.holds (holding nnbaaa idle).obuf 0 nnbaaa ∧ nnbaaa.length ≤ 6) ∧ used.Inv :=
  ⟨by decide, used_inv⟩

/-! ### The suffix sorter -/

theorem witness_RotationIsTheCyclicString : 5 < banana.length ∧ 5 < banana.length := by decide

/-- LEN one past NMAX; ARG0 = LEN; ARG1 = LEN. -/
theorem witness_CmprComparesTwoRotations_errors :
    (withLen 17#32 idle).nmax < (withLen 17#32 idle).len.toNat ∧
    ((given abab (withArgs 4#32 0#32 idle)).len.toNat ≤ (given abab (withArgs 4#32 0#32 idle)).nmax ∧
      (given abab (withArgs 4#32 0#32 idle)).len.toNat ≤
        (given abab (withArgs 4#32 0#32 idle)).arg0.toNat) ∧
    ((given abab (withArgs 3#32 4#32 idle)).len.toNat ≤ (given abab (withArgs 3#32 4#32 idle)).nmax ∧
      (given abab (withArgs 3#32 4#32 idle)).arg0.toNat <
        (given abab (withArgs 3#32 4#32 idle)).len.toNat ∧
      (given abab (withArgs 3#32 4#32 idle)).len.toNat ≤
        (given abab (withArgs 3#32 4#32 idle)).arg1.toNat) := by decide

/-- The three outcomes, the last at ARG0 = LEN - 1 and LEN = NMAX. -/
theorem witness_CmprComparesTwoRotations_results :
    ((given abab (withArgs 0#32 1#32 idle)).inputIs abab ∧
      rotationOf abab 0 < rotationOf abab 1) ∧
    ((given abab (withArgs 0#32 2#32 idle)).inputIs abab ∧
      rotationOf abab 0 = rotationOf abab 2) ∧
    ((given (0x42#8 :: ones 15) (withArgs 0#32 15#32 idle)).len.toNat =
        (given (0x42#8 :: ones 15) (withArgs 0#32 15#32 idle)).nmax ∧
      (given (0x42#8 :: ones 15) (withArgs 0#32 15#32 idle)).arg1.toNat <
        (given (0x42#8 :: ones 15) (withArgs 0#32 15#32 idle)).len.toNat ∧
      (given (0x42#8 :: ones 15) (withArgs 0#32 15#32 idle)).inputIs (0x42#8 :: ones 15) ∧
      rotationOf (0x42#8 :: ones 15) 15 < rotationOf (0x42#8 :: ones 15) 0) := by decide

/-- The last element of the block is the first unwritten one; and nothing is written. -/
theorem firstUnwritten_last :
    Memory.firstUnwritten (withLen 5#32 (given abab idle)).ibuf 0 5 4 :=
  ⟨by decide, by decide, by decide, fun j _ h => by interval_cases j <;> decide⟩

theorem firstUnwritten_first : Memory.firstUnwritten idle.ibuf 0 1 0 :=
  ⟨by decide, by decide, by decide, fun j _ h => absurd h (by omega)⟩

theorem witness_CmprComparesTwoRotations_unwritten :
    (withLen 5#32 (given abab idle)).len.toNat ≤ (withLen 5#32 (given abab idle)).nmax ∧
    (withLen 5#32 (given abab idle)).arg0.toNat < (withLen 5#32 (given abab idle)).len.toNat ∧
    (withLen 5#32 (given abab idle)).arg1.toNat < (withLen 5#32 (given abab idle)).len.toNat ∧
    Memory.firstUnwritten (withLen 5#32 (given abab idle)).ibuf 0
      (withLen 5#32 (given abab idle)).len.toNat 4 :=
  ⟨by decide, by decide, by decide, firstUnwritten_last⟩

/-- SORT, BWTE: LEN one past NMAX, an unwritten element, and full blocks of NMAX and of no bytes. -/
theorem witness_SortWritesTheOrder :
    (withLen 17#32 idle).nmax < (withLen 17#32 idle).len.toNat ∧
    ((withLen 5#32 (given abab idle)).len.toNat ≤ (withLen 5#32 (given abab idle)).nmax ∧
      Memory.firstUnwritten (withLen 5#32 (given abab idle)).ibuf 0
        (withLen 5#32 (given abab idle)).len.toNat 4) ∧
    ((given (ones 16) idle).len.toNat = (given (ones 16) idle).nmax ∧
      (given (ones 16) idle).inputIs (ones 16)) ∧
    (given [] idle).len.toNat ≤ (given [] idle).nmax ∧ (given [] idle).inputIs [] :=
  ⟨by decide, ⟨by decide, firstUnwritten_last⟩, by decide, by decide⟩

theorem witness_OrdIsAPermutationAfterSorting :
    Instr.bwteS ∈ [Instr.sort, .bwte, .bwteS] ∧
    (given abab idle).len.toNat ≤ (given abab idle).nmax ∧
    (∃ t, exec .bwteS (given abab idle) = .next t) ∧ 3 < (given abab idle).len.toNat :=
  ⟨by decide, by decide, ⟨_, rfl⟩, by decide⟩

/-- "ABAB" sorted with the other tie-break; and its second rank. -/
theorem witness_TransformIsTheSameUnderEveryTieBreak :
    (List.Perm [2, 0, 3, 1] (List.range abab.length) ∧
      [2, 0, 3, 1].Pairwise (fun i j => ¬ rotationOf abab j < rotationOf abab i)) ∧
    0 < originRank banana ∧ (sortOrder banana)[0]? = some 5 := by decide

/-! ### The BWT mapper -/

theorem witness_OriginRankAndTransformAreTheBwtPair :
    1 ≤ (ones 1).length ∧ (sortOrder (ones 1))[0]? = some 0 ∧ 1 ≤ banana.length ∧
    (sortOrder banana)[3]? = some 0 := by decide

/-- The hypotheses are those of SORT. -/
theorem witness_BwteWritesTheTransform :
    (withLen 17#32 idle).nmax < (withLen 17#32 idle).len.toNat ∧
    ((withLen 5#32 (given abab idle)).len.toNat ≤ (withLen 5#32 (given abab idle)).nmax ∧
      Memory.firstUnwritten (withLen 5#32 (given abab idle)).ibuf 0
        (withLen 5#32 (given abab idle)).len.toNat 4) ∧
    (given (ones 16) idle).len.toNat = (given (ones 16) idle).nmax ∧
    (given (ones 16) idle).inputIs (ones 16) :=
  ⟨by decide, ⟨by decide, firstUnwritten_last⟩, by decide⟩

theorem witness_SuccessorsSortTheTransformStably : 0 < 256 ∧ 255 < 256 := by decide

theorem witness_InverseWalkIsCountTerminated : 5 < nnbaaa.length ∧ 5 < nnbaaa.length := by decide

/-- LEN one past NMAX; ORIGIN = LEN at LEN = NMAX and at LEN = 1; LEN = 0. -/
theorem witness_BwtdWritesTheInverse_errors :
    (withLen 17#32 idle).nmax < (withLen 17#32 idle).len.toNat ∧
    ((withOrigin 16#32 (withLen 16#32 idle)).len.toNat ≤
        (withOrigin 16#32 (withLen 16#32 idle)).nmax ∧
      1 ≤ (withOrigin 16#32 (withLen 16#32 idle)).len.toNat ∧
      (withOrigin 16#32 (withLen 16#32 idle)).len.toNat ≤
        (withOrigin 16#32 (withLen 16#32 idle)).origin.toNat) ∧
    ((withOrigin 1#32 (withLen 1#32 idle)).len.toNat ≤ (withOrigin 1#32 (withLen 1#32 idle)).nmax ∧
      1 ≤ (withOrigin 1#32 (withLen 1#32 idle)).len.toNat ∧
      (withOrigin 1#32 (withLen 1#32 idle)).len.toNat ≤
        (withOrigin 1#32 (withLen 1#32 idle)).origin.toNat) ∧
    (withOrigin 0xFFFFFFFF#32 idle).len = 0#32 := by decide

theorem witness_BwtdWritesTheInverse_results :
    ((withLen 5#32 (given abab idle)).len.toNat ≤ (withLen 5#32 (given abab idle)).nmax ∧
      (withLen 5#32 (given abab idle)).origin.toNat < (withLen 5#32 (given abab idle)).len.toNat ∧
      Memory.firstUnwritten (withLen 5#32 (given abab idle)).ibuf 0
        (withLen 5#32 (given abab idle)).len.toNat 4) ∧
    (withOrigin 15#32 (given (ones 16) idle)).len.toNat =
      (withOrigin 15#32 (given (ones 16) idle)).nmax ∧
    (withOrigin 15#32 (given (ones 16) idle)).origin.toNat <
      (withOrigin 15#32 (given (ones 16) idle)).len.toNat ∧
    (withOrigin 15#32 (given (ones 16) idle)).inputIs (ones 16) :=
  ⟨⟨by decide, by decide, firstUnwritten_last⟩, by decide⟩

/-- A serialised stream: the rank 256 * b2 + b3 and the transform. -/
def stream (b2 b3 : Byte) (t : List Byte) : State := given ([0x00#8, 0x00#8, b2, b3] ++ t) idle

/-- LEN one past BUFSZ; LEN = 3; an unwritten header; the rank n; n = 0 whatever the rank. -/
theorem witness_BwtdOfAStreamReadsItsHeader_errors :
    (withLen 21#32 idle).nmax + 4 < (withLen 21#32 idle).len.toNat ∧
    (withLen 3#32 idle).len.toNat < 4 ∧
    ((withLen 4#32 idle).len.toNat ≤ (withLen 4#32 idle).nmax + 4 ∧
      4 ≤ (withLen 4#32 idle).len.toNat ∧ Memory.firstUnwritten (withLen 4#32 idle).ibuf 0 4 0) ∧
    ((stream 0#8 6#8 nnbaaa).len.toNat ≤ (stream 0#8 6#8 nnbaaa).nmax + 4 ∧
      Memory.holds (stream 0#8 6#8 nnbaaa).ibuf 0 [0x00#8, 0x00#8, 0x00#8, 0x06#8] ∧
      (6#32).toNat = (0x00#8).toNat * 2 ^ 24 + (0x00#8).toNat * 2 ^ 16 + (0x00#8).toNat * 2 ^ 8 +
        (0x06#8).toNat ∧
      4 < (stream 0#8 6#8 nnbaaa).len.toNat ∧
      (stream 0#8 6#8 nnbaaa).len.toNat - 4 ≤ (6#32).toNat) ∧
    (Memory.holds (stream 1#8 0#8 []).ibuf 0 [0x00#8, 0x00#8, 0x01#8, 0x00#8] ∧
      (256#32).toNat = (0x00#8).toNat * 2 ^ 24 + (0x00#8).toNat * 2 ^ 16 + (0x01#8).toNat * 2 ^ 8 +
        (0x00#8).toNat ∧
      (stream 1#8 0#8 []).len.toNat = 4) :=
  ⟨by decide, by decide,
    ⟨by decide, by decide, by decide, by decide, by decide, fun j _ h => absurd h (by omega)⟩,
    by decide, by decide⟩

/-- An unwritten last byte of the transform; the rank n - 1 at n = NMAX. -/
theorem witness_BwtdOfAStreamReadsItsHeader_results :
    (Memory.holds (withLen 6#32 (stream 0#8 0#8 (ones 1))).ibuf 0 [0#8, 0#8, 0#8, 0#8] ∧
      (0#32).toNat < (withLen 6#32 (stream 0#8 0#8 (ones 1))).len.toNat - 4 ∧
      Memory.firstUnwritten (withLen 6#32 (stream 0#8 0#8 (ones 1))).ibuf 4
        ((withLen 6#32 (stream 0#8 0#8 (ones 1))).len.toNat - 4) 5) ∧
    (stream 0#8 15#8 (ones 16)).len.toNat = (stream 0#8 15#8 (ones 16)).nmax + 4 ∧
    Memory.holds (stream 0#8 15#8 (ones 16)).ibuf 0 [0#8, 0#8, 0#8, 15#8] ∧
    (15#32).toNat < (stream 0#8 15#8 (ones 16)).len.toNat - 4 ∧
    (ones 16).length = (stream 0#8 15#8 (ones 16)).len.toNat - 4 ∧
    Memory.holds (stream 0#8 15#8 (ones 16)).ibuf 4 (ones 16) :=
  ⟨⟨by decide, by decide, by decide, by decide, by decide,
    fun j h1 h2 => by interval_cases j; decide⟩, by decide⟩

theorem witness_InverseOfTransformIsTheBlock : 1 ≤ (ones 1).length ∧ 1 ≤ abab.length := by decide

theorem witness_BwtRoundTripReturnsTheBlock :
    ((given abab idle).nmax ≤ 2 ^ 31 ∧ (given abab idle).len.toNat ≤ (given abab idle).nmax ∧
      (given abab idle).inputIs abab) ∧
    (given [] idle).inputIs [] := by decide

/-! ### The Move-to-Front unit -/

theorem witness_MoveToFrontIsAPermutation : [3#8, 1#8, 2#8][2]? = some 2#8 := by decide

theorem witness_MtfLoopsFollowTheRecencyList :
    [3#8, 1#8, 2#8].Nodup ∧ [3#8, 1#8, 2#8].length ≤ 256 ∧ 2 < [3#8, 1#8, 2#8].length ∧
    [3#8, 1#8, 2#8][2]? = some 2#8 := by decide

/-- Both forms; LEN one past BUFSZ; an unwritten byte; the first byte that is ALPHA or more; a stream
of BUFSZ bytes. -/
theorem witness_MtfeEncodesTheStream :
    (Instr.mtfe, identityList toy.alpha.toNat) ∈
      [(Instr.mtfe, identityList toy.alpha.toNat), (Instr.mtfeC, toy.lst)] ∧
    (Instr.mtfeC, used.lst) ∈ [(Instr.mtfe, identityList used.alpha.toNat), (Instr.mtfeC, used.lst)] ∧
    (withLen 21#32 toy).bufsz < (withLen 21#32 toy).len.toNat ∧
    ((withLen 1#32 toy).len.toNat ≤ (withLen 1#32 toy).bufsz ∧
      Memory.firstUnwritten (withLen 1#32 toy).ibuf 0 (withLen 1#32 toy).len.toNat 0) ∧
    ((given [2#8, 3#8, 4#8] toy).inputIs [2#8, 3#8, 4#8] ∧ [2#8, 3#8, 4#8][1]? = some 3#8 ∧
      (given [2#8, 3#8, 4#8] toy).alpha.toNat ≤ (3#8).toNat ∧
      ∀ (j : Nat) (w : Byte), j < 1 → [2#8, 3#8, 4#8][j]? = some w →
        w.toNat < (given [2#8, 3#8, 4#8] toy).alpha.toNat) ∧
    identityList toy.alpha.toNat = [0#8, 1#8, 2#8] ∧ toy.alpha.toNat ≤ 256 ∧
    (given (List.replicate 20 2#8) toy).len.toNat = (given (List.replicate 20 2#8) toy).bufsz ∧
    (given (List.replicate 20 2#8) toy).inputIs (List.replicate 20 2#8) ∧
    ∀ v ∈ List.replicate 20 2#8, v.toNat < (given (List.replicate 20 2#8) toy).alpha.toNat :=
  ⟨by decide, by decide, by decide, ⟨by decide, firstUnwritten_first⟩,
    ⟨by decide, by decide, by decide, fun j w hj hw => by
      obtain rfl : j = 0 := by omega
      cases hw
      decide⟩, by decide⟩

/-- The hypotheses are those of MTFE, for the decoder's two forms. -/
theorem witness_MtfdDecodesTheRanks :
    (Instr.mtfd, identityList toy.alpha.toNat) ∈
      [(Instr.mtfd, identityList toy.alpha.toNat), (Instr.mtfdC, toy.lst)] ∧
    (Instr.mtfdC, used.lst) ∈ [(Instr.mtfd, identityList used.alpha.toNat), (Instr.mtfdC, used.lst)] ∧
    (withLen 21#32 toy).bufsz < (withLen 21#32 toy).len.toNat ∧
    ((withLen 1#32 toy).len.toNat ≤ (withLen 1#32 toy).bufsz ∧
      Memory.firstUnwritten (withLen 1#32 toy).ibuf 0 (withLen 1#32 toy).len.toNat 0) ∧
    ((given [3#8] toy).inputIs [3#8] ∧ [3#8][0]? = some 3#8 ∧
      (given [3#8] toy).alpha.toNat ≤ (3#8).toNat ∧
      ∀ (j : Nat) (w : Byte), j < 0 → [3#8][j]? = some w →
        w.toNat < (given [3#8] toy).alpha.toNat) ∧
    (given [2#8, 0#8] toy).len.toNat ≤ (given [2#8, 0#8] toy).bufsz ∧
    (given [2#8, 0#8] toy).inputIs [2#8, 0#8] ∧
    ∀ v ∈ [2#8, 0#8], v.toNat < (given [2#8, 0#8] toy).alpha.toNat :=
  ⟨by decide, by decide, by decide, ⟨by decide, firstUnwritten_first⟩,
    ⟨by decide, by decide, by decide, fun j _ hj => absurd hj (by omega)⟩, by decide⟩

theorem witness_MtfiRestoresTheIdentityList : 2 < used.alpha.toNat := by decide

theorem witness_MtfRoundTripReturnsTheStream :
    used.Inv ∧ used.len.toNat ≤ used.bufsz ∧ used.inputIs [2#8, 2#8, 1#8] ∧
    ∀ v ∈ [2#8, 2#8, 1#8], v.toNat < used.alpha.toNat :=
  ⟨used_inv, by decide, by decide, by decide⟩

/-- W1 cut after its second symbol, encoding. -/
theorem witness_MtfStreamMayBeCutAnywhere_mtfe :
    ∃ t1 t2 t3,
      (Instr.mtfe, Instr.mtfeC) ∈ [(Instr.mtfe, Instr.mtfeC), (Instr.mtfd, Instr.mtfdC)] ∧
      (given [2#8, 2#8] toy).inputIs [2#8, 2#8] ∧
      (given [1#8, 1#8, 2#8] { toy with lst := [2#8, 0#8, 1#8] }).inputIs [1#8, 1#8, 2#8] ∧
      (given [2#8, 2#8, 1#8, 1#8, 2#8] toy).inputIs ([2#8, 2#8] ++ [1#8, 1#8, 2#8]) ∧
      exec .mtfe (given [2#8, 2#8] toy) = .next t1 ∧ t1.status.err = false ∧
      [2#8, 0#8, 1#8] = t1.lst ∧
      exec .mtfeC (given [1#8, 1#8, 2#8] { toy with lst := [2#8, 0#8, 1#8] }) = .next t2 ∧
      t2.status.err = false ∧
      exec .mtfe (given [2#8, 2#8, 1#8, 1#8, 2#8] toy) = .next t3 ∧ t3.status.err = false ∧
      Memory.holds t1.obuf 0 [2#8, 0#8] ∧ Memory.holds t2.obuf 0 [2#8, 0#8, 1#8] ∧
      Memory.holds t3.obuf 0 [2#8, 0#8, 2#8, 0#8, 1#8] :=
  ⟨_, _, _, by decide, by decide, by decide, by decide, rfl, by decide, by decide, rfl, by decide, rfl,
    by decide, by decide, by decide, by decide⟩

/-- P5, lines 6 to 13, decoding. -/
theorem witness_MtfStreamMayBeCutAnywhere_mtfd :
    ∃ t1 t2 t3,
      (Instr.mtfd, Instr.mtfdC) ∈ [(Instr.mtfe, Instr.mtfeC), (Instr.mtfd, Instr.mtfdC)] ∧
      (given [2#8, 0#8, 2#8] toy).inputIs [2#8, 0#8, 2#8] ∧
      (given [0#8, 1#8] { toy with lst := [1#8, 2#8, 0#8] }).inputIs [0#8, 1#8] ∧
      (given [2#8, 0#8, 2#8, 0#8, 1#8] toy).inputIs ([2#8, 0#8, 2#8] ++ [0#8, 1#8]) ∧
      exec .mtfd (given [2#8, 0#8, 2#8] toy) = .next t1 ∧ t1.status.err = false ∧
      [1#8, 2#8, 0#8] = t1.lst ∧
      exec .mtfdC (given [0#8, 1#8] { toy with lst := [1#8, 2#8, 0#8] }) = .next t2 ∧
      t2.status.err = false ∧
      exec .mtfd (given [2#8, 0#8, 2#8, 0#8, 1#8] toy) = .next t3 ∧ t3.status.err = false ∧
      Memory.holds t1.obuf 0 [2#8, 2#8, 1#8] ∧ Memory.holds t2.obuf 0 [1#8, 2#8] ∧
      Memory.holds t3.obuf 0 [2#8, 2#8, 1#8, 1#8, 2#8] :=
  ⟨_, _, _, by decide, by decide, by decide, by decide, rfl, by decide, by decide, rfl, by decide, rfl,
    by decide, by decide, by decide, by decide⟩

theorem witness_MtfIsTotalOnByteStreams :
    (given [0xFF#8, 0x00#8] idle).alpha = 256#32 ∧
    (given [0xFF#8, 0x00#8] idle).len.toNat ≤ (given [0xFF#8, 0x00#8] idle).bufsz ∧
    (given [0xFF#8, 0x00#8] idle).inputIs [0xFF#8, 0x00#8] ∧
    ∀ i ∈ [Instr.mtfe, .mtfeC, .mtfd, .mtfdC], i ∈ [Instr.mtfe, .mtfeC, .mtfd, .mtfdC] := by decide

/-! ### Errors and whole-machine rules of the commands -/

theorem witness_ErrorsChangeNothingElse :
    ∃ t, (withLen 17#32 idle).status.err = false ∧ exec .sort (withLen 17#32 idle) = .next t ∧
      t.status.err = true := ⟨_, by decide, rfl, by decide⟩

/-- One error of each code a legal command can report. -/
theorem witness_ErrorsAreThoseOfTheTable :
    (∃ t, exec .mtfe (withLen 21#32 idle) = .next t ∧ t.status.errcode = 2#4) ∧
    (∃ t, exec .bwtdS (withLen 3#32 idle) = .next t ∧ t.status.errcode = 3#4) ∧
    (∃ t, exec .bwtd (withOrigin 1#32 (withLen 1#32 idle)) = .next t ∧ t.status.errcode = 4#4) ∧
    (∃ t, exec .bwtdS (stream 0#8 6#8 nnbaaa) = .next t ∧ t.status.errcode = 4#4) ∧
    (∃ t, exec .cmpr idle = .next t ∧ t.status.errcode = 5#4) ∧
    (∃ t, exec .mtfeC (given [3#8] toy) = .next t ∧ t.status.errcode = 6#4) ∧
    ∃ t, exec .mtfd (given [3#8] toy) = .next t ∧ t.status.errcode = 7#4 :=
  ⟨⟨_, rfl, by decide⟩, ⟨_, rfl, by decide⟩, ⟨_, rfl, by decide⟩, ⟨_, rfl, by decide⟩,
    ⟨_, rfl, by decide⟩, ⟨_, rfl, by decide⟩, ⟨_, rfl, by decide⟩⟩

theorem witness_OnlyUnwrittenOperandsStopACommand :
    stopped (exec .bwtdS (withLen 4#32 idle)) = some (.unwritten .ibuf 0) ∧
    stopped (exec .move { idle with olen := 1#32 }) = some (.unwritten .obuf 0) := by decide

/-- Every command answers a next state at some state. -/
theorem witness_CommandsWriteOnlyTheirColumns (i : Instr) :
    ∃ t, exec i (given [0#8, 0#8, 0#8, 0#8, 0#8] idle) = .next t := by
  cases i <;> exact ⟨_, rfl⟩

/-- Answers from states of the invariant, and the indices at the lower edges of the ranges; for BWTD
with S = 1 at LEN = 4, where ORD is not written from index 0 on. -/
theorem witness_CommandsWriteOnlyTheirRanges :
    (∃ t, idle.Inv ∧ exec .sort idle = .next t ∧ t.len.toNat ≤ 0 ∧ idle.len.toNat ≤ 0 ∧
      t.olen.toNat ≤ 0) ∧
    ∃ t, exec .bwtdS (given [0#8, 0#8, 0#8, 9#8] idle) = .next t ∧
      (given [0#8, 0#8, 0#8, 9#8] idle).len.toNat - 4 ≤ 0 :=
  ⟨⟨_, idle_inv, rfl, by decide, by decide, by decide⟩, _, rfl, by decide⟩

/-- The hypotheses of OnlyTheOperandsMatter. -/
abbrev sharesOperands (i : Instr) (s s' : State) : Prop :=
  s'.cap = s.cap ∧ s'.alpha = s.alpha ∧
  (i ∉ [Instr.nop, .mtfi, .move] →
    s'.len = s.len ∧ ∀ a, a < s.len.toNat → Memory.read s'.ibuf a = Memory.read s.ibuf a) ∧
  (i = .cmpr → s'.arg0 = s.arg0 ∧ s'.arg1 = s.arg1) ∧
  (i = .bwtd → s'.origin = s.origin) ∧
  (i ∈ [Instr.mtfeC, .mtfdC] → s'.lst = s.lst) ∧
  (i = .move →
    s'.olen = s.olen ∧ ∀ a, a < s.olen.toNat → Memory.read s'.obuf a = Memory.read s.obuf a)

/-- Input and output on which every command succeeds. -/
def full : State := holding [1#8, 2#8] (given [0#8, 0#8, 0#8, 0#8, 1#8, 2#8] toy)

/-- `full` with everything but LEN and IBUF below it changed. -/
def changed : State :=
  { full with
    status := ⟨true, false, false, true, 0#4⟩
    ie := true, origin := 1#32, arg0 := 2#32, arg1 := 3#32, result := 1#32, olen := 3#32
    ibuf := Memory.write full.ibuf 19 0x55#8, obuf := [(0, 0x55#8)], ord := [(0, 3#32)]
    lst := [2#8, 1#8, 0#8], cnt := [], port := .okay }

theorem witness_OnlyTheOperandsMatter :
    sharesOperands .nop full (withLen 9#32 changed) ∧ sharesOperands .sort full changed ∧
    sharesOperands .cmpr full (withArgs 0#32 0#32 changed) ∧ sharesOperands .bwte full changed ∧
    sharesOperands .bwteS full changed ∧ sharesOperands .bwtd full (withOrigin 0#32 changed) ∧
    sharesOperands .bwtdS full changed ∧ sharesOperands .mtfe full changed ∧
    sharesOperands .mtfeC full { changed with lst := full.lst } ∧
    sharesOperands .mtfd full changed ∧ sharesOperands .mtfdC full { changed with lst := full.lst } ∧
    sharesOperands .mtfi full (withLen 9#32 changed) ∧
    sharesOperands .move full (withLen 9#32 (holding [1#8, 2#8] changed)) := by
  refine ⟨?_, ?_, ?_, ?_, ?_, ?_, ?_, ?_, ?_, ?_, ?_, ?_, ?_⟩ <;> decide

/-- Both outcomes occur, and a fault does. -/
theorem witness_OnlyTheOperandsMatter_outcomes :
    (∀ i, (after (exec i full)).map (fun t => t.status) = some full.statusDone) ∧
    (∃ t, exec .sort (withLen 17#32 full) = .next t) ∧
    ∃ f, exec .sort (withLen 7#32 full) = .fault f :=
  ⟨fun i => by cases i <;> decide, ⟨_, rfl⟩, _, rfl⟩

/-! ### The host port -/

theorem witness_CmdWriteIssuesTheWord :
    ((writing 0#3 0#32 0xFFFFFFFF#32 idle).status.busy = false ∧
      (writing 0#3 0#32 0xFFFFFFFF#32 idle).moves = .host (.write 0#3 0#32 0xFFFFFFFF#32) :: []) ∧
    (reading 0#3 0#32 idle).moves = .host (.read 0#3 0#32) :: [] ∧
    (∃ t, step (writing 0#3 0#32 1#32 idle) = .next t ∧ t.cmd ≠ (writing 0#3 0#32 1#32 idle).cmd) ∧
    ∃ t, step (withMoves [.reset] (issue 1#32 idle)) = .next t ∧
      t.cmd ≠ (withMoves [.reset] (issue 1#32 idle)).cmd :=
  ⟨by decide, by decide, ⟨_, rfl, by decide⟩, _, rfl, by decide⟩

theorem witness_StatusReadsAndClearsByItsLayout :
    (reading 0#3 1#32 (issue 1#32 idle)).moves = .host (.read 0#3 1#32) :: [] ∧
    (writing 0#3 1#32 0x0000000E#32 idle).moves = .host (.write 0#3 1#32 0x0000000E#32) :: [] := by
  decide

theorem witness_ConfigIsTheInterruptEnableOnly :
    (writing 0#3 2#32 0xFFFFFFFF#32 idle).moves = .host (.write 0#3 2#32 0xFFFFFFFF#32) :: [] ∧
    (reading 0#3 2#32 idle).moves = .host (.read 0#3 2#32) :: [] ∧
    (∃ t, exec .mtfi idle = .next t) ∧ ∃ f, exec .sort (withLen 1#32 idle) = .fault f :=
  ⟨by decide, by decide, ⟨_, rfl⟩, _, rfl⟩

/-- IBUF at its last index. -/
theorem witness_IdleWritesStoreTheirData :
    idle.status.busy = false ∧
    (∀ r, (writing 0#3 r 7#32 idle).moves = .host (.write 0#3 r 7#32) :: []) ∧
    (writing 1#3 19#32 0xFFF#32 idle).moves = .host (.write 1#3 19#32 0xFFF#32) :: [] ∧
    (19#32).toNat < idle.bufsz := ⟨by decide, fun _ => rfl, by decide⟩

/-- Every clause, at the first and last index of its range. -/
theorem witness_BusyWritesAreDropped :
    (issue 1#32 idle).status.busy = true ∧
    (∀ space r, (writing space r 1#32 (issue 1#32 idle)).moves =
      .host (.write space r 1#32) :: []) ∧ 6#32 ∈ [0#32, 3#32, 4#32, 5#32, 6#32] ∧
    ((0#32).toNat < (issue 1#32 idle).bufsz ∧ (19#32).toNat < (issue 1#32 idle).bufsz) ∧
    (7 ≤ (7#32).toNat ∧ (13#32).toNat ≤ 13) ∧ (15#32).toNat < (issue 1#32 idle).nmax ∧
    (255#32).toNat < (issue 1#32 idle).alpha.toNat := ⟨by decide, fun _ _ => rfl, by decide⟩

theorem witness_BusyReadsAnswerOrFault :
    (issue 1#32 idle).status.busy = true ∧
    (reading 0#3 13#32 (issue 1#32 idle)).moves = .host (.read 0#3 13#32) :: [] ∧
    (13#32, 0x42575431#32) ∈ [(0#32, (issue 1#32 idle).cmd),
      (1#32, (issue 1#32 idle).status.toWord), (2#32, configWord (issue 1#32 idle).ie),
      (5#32, (issue 1#32 idle).arg0), (6#32, (issue 1#32 idle).arg1), (11#32, (issue 1#32 idle).cap),
      (12#32, (issue 1#32 idle).alpha), (13#32, 0x42575431#32)] ∧
    10#32 ∈ [3#32, 4#32, 7#32, 8#32, 9#32, 10#32] ∧
    (19#32).toNat < (issue 1#32 idle).bufsz ∧ (15#32).toNat < (issue 1#32 idle).nmax ∧
    (255#32).toNat < (issue 1#32 idle).alpha.toNat := by decide

/-- A written and an unwritten element, and the last rank. -/
theorem witness_IdleReadsAnswerTheState :
    (given abab idle).status.busy = false ∧
    (reading 1#3 3#32 (given abab idle)).moves = .host (.read 1#3 3#32) :: [] ∧
    (3#32).toNat < (given abab idle).bufsz ∧
    Memory.read (given abab idle).ibuf (3#32).toNat = some 0x42#8 ∧
    Memory.read (given abab idle).ibuf (4#32).toNat = none ∧
    Memory.read ({ idle with ord := [(15, 3#32)] } : State).ord (15#32).toNat = some 3#32 ∧
    (15#32).toNat < idle.nmax ∧ Memory.read idle.ord (15#32).toNat = none ∧
    (255#32).toNat < idle.alpha.toNat ∧ idle.lst[(255#32).toNat]? = some 255#8 := by decide

/-- Both kinds, and both sides of every edge of the map. -/
theorem witness_RefusedTransactionsAreThoseOffTheMap :
    (reading 4#3 256#32 idle).moves = .host (.read 4#3 256#32) :: [] ∧
    (writing 1#3 20#32 0#32 idle).moves = .host (.write 1#3 20#32 0#32) :: [] ∧
    stopped (step (reading 4#3 256#32 idle)) = some (.decerr 4#3 256#32) ∧
    stopped (step (reading 4#3 255#32 idle)) = none ∧
    stopped (step (writing 1#3 20#32 0#32 idle)) = some (.decerr 1#3 20#32) ∧
    stopped (step (writing 1#3 19#32 0#32 idle)) = none := by decide

theorem witness_ReadOnlyWritesAreIgnored :
    (writing 0#3 13#32 0#32 idle).moves = .host (.write 0#3 13#32 0#32) :: [] ∧
    (7 ≤ (13#32).toNat ∧ (13#32).toNat ≤ 13) ∧ 7 ≤ (7#32).toNat ∧
    (19#32).toNat < idle.bufsz ∧ (15#32).toNat < idle.nmax ∧
    (255#32).toNat < idle.alpha.toNat := by decide

theorem witness_ReadsHaveNoSideEffect :
    (reading 0#3 13#32 idle).moves = .host (.read 0#3 13#32) :: [] ∧
    ∃ t, step (reading 0#3 13#32 idle) = .next t := ⟨by decide, _, rfl⟩

/-! ### Completion, interrupt, reset -/

theorem witness_BusyChangesOnlyByIssueAndCompletion :
    (∃ t, step (writing 0#3 0#32 1#32 idle) = .next t ∧
      (writing 0#3 0#32 1#32 idle).status.busy = false ∧ t.status.busy = true) ∧
    ∃ t, step (issue 1#32 idle) = .next t ∧ (issue 1#32 idle).status.busy = true ∧
      t.status.busy = false ∧ (issue 1#32 idle).moves = [] :=
  ⟨⟨_, rfl, by decide, by decide⟩, _, rfl, by decide, by decide, by decide⟩

theorem witness_HazIsSticky :
    (∃ t, step (writing 0#3 3#32 5#32 (issue 1#32 idle)) = .next t ∧
      (writing 0#3 3#32 5#32 (issue 1#32 idle)).status.haz = false ∧ t.status.haz = true) ∧
    ∃ t, step (writing 0#3 1#32 8#32 (dropWrite (issue 1#32 idle))) = .next t ∧
      (writing 0#3 1#32 8#32 (dropWrite (issue 1#32 idle))).status.haz = true ∧
      t.status.haz = false :=
  ⟨⟨_, rfl, by decide, by decide⟩, _, rfl, by decide, by decide⟩

/-- Two transactions while BUSY, the second a dropped write. -/
theorem witness_OperandsStayAsIssued :
    ∃ u, (withMoves [.host (.read 0#3 1#32), .host (.write 0#3 3#32 5#32)]
        (issue 1#32 idle)).status.busy = true ∧
      (withMoves [.host (.read 0#3 1#32), .host (.write 0#3 3#32 5#32)] (issue 1#32 idle)).moves =
        [Transaction.read 0#3 1#32, .write 0#3 3#32 5#32].map Move.host ++ [] ∧
      Host.Core.run core [Transaction.read 0#3 1#32, .write 0#3 3#32 5#32].length
        (withMoves [.host (.read 0#3 1#32), .host (.write 0#3 3#32 5#32)] (issue 1#32 idle)) =
        .next u := ⟨_, by decide, by decide, rfl⟩

theorem witness_ConstantRegistersNeverChange :
    (∃ t, step (withMoves [.reset] used) = .next t) ∧
    (reading 0#3 13#32 idle).moves = .host (.read 0#3 13#32) :: [] := ⟨⟨_, rfl⟩, by decide⟩

theorem witness_IrqFollowsDoneAndEnable :
    (∃ t, step ({ issue 1#32 idle with ie := true } : State) = .next t ∧
      ({ issue 1#32 idle with ie := true } : State).status.busy = true ∧
      ({ issue 1#32 idle with ie := true } : State).moves = [] ∧ t.irq = true) ∧
    (∃ t, step (writing 0#3 0#32 1#32 idle) = .next t) ∧
    (∃ t, step (writing 0#3 1#32 2#32 idle) = .next t ∧ (2#32).getLsbD 1 = true) ∧
    ∃ t, step (writing 0#3 2#32 0#32 idle) = .next t ∧ (0#32).getLsbD 0 = false :=
  ⟨⟨_, rfl, by decide, by decide, by decide⟩, ⟨_, rfl⟩, ⟨_, rfl, by decide⟩, _, rfl, by decide⟩

theorem witness_BusyEndsOrFaultsWithinTheMoves : (issue 1#32 idle).status.busy = true := by decide

theorem witness_ResetLeavesTheSpecifiedState :
    (withMoves [.reset] (issue 1#32 used)).moves = .reset :: [] ∧
    ∃ t, step (withMoves [.reset] (issue 1#32 used)) = .next t ∧
      t.cap = (withMoves [.reset] (issue 1#32 used)).cap ∧
      t.alpha = (withMoves [.reset] (issue 1#32 used)).alpha :=
  ⟨by decide, _, rfl, by decide, by decide⟩

end Sys2Proof.Tests
end

/-! ## What a turn can do

Every step lemma below splits on `Turn`: the step function is taken apart here once. -/

section

namespace Sys2Proof.Machine

/-! ### Host writes -/

/-- The index of a register (10_state R22), the inverse of `Csr.ofIndex`. -/
def Csr.index : Csr → Nat
  | .cmd => 0
  | .status => 1
  | .config => 2
  | .len => 3
  | .origin => 4
  | .arg0 => 5
  | .arg1 => 6
  | .result => 7
  | .olen => 8
  | .errinfo => 9
  | .errpos => 10
  | .cap => 11
  | .alpha => 12
  | .id => 13

theorem Csr.index_of_ofIndex {i : Nat} {r : Csr} (h : Csr.ofIndex i = some r) : i = r.index := by
  unfold Csr.ofIndex at h
  split at h <;> cases h <;> rfl

variable {s t : State} {space : BitVec 3} {index data : Word}

/-- The places whose writes a busy engine drops: CMD, LEN, ORIGIN, ARG0, ARG1 and IBUF
(70_reset R194). -/
abbrev idleOnly (space : BitVec 3) (index : Word) : Prop :=
  (space = 0#3 ∧ index ∈ [0#32, 3#32, 4#32, 5#32, 6#32]) ∨ space = 1#3

/-- What a host write in range makes of the state: the places that take it, the drop by a busy
engine, and the read-only places. -/
inductive HostWrite (space : BitVec 3) (index data : Word) (s : State) : State → Prop where
  | issue (hp : space = 0#3 ∧ index = 0#32) (hb : s.status.busy = false) :
      HostWrite space index data s (issue data s)
  | status (hp : space = 0#3 ∧ index = 1#32) :
      HostWrite space index data s { s with status := s.status.writeOneToClear data }
  | config (hp : space = 0#3 ∧ index = 2#32) :
      HostWrite space index data s { s with ie := data.getLsbD 0 }
  | operand (len origin arg0 arg1 : Word)
      (hp : space = 0#3 ∧ index ∈ [3#32, 4#32, 5#32, 6#32]) (hb : s.status.busy = false) :
      HostWrite space index data s
        { s with len := len, origin := origin, arg0 := arg0, arg1 := arg1 }
  | input (hp : space = 1#3) (hi : index.toNat < s.bufsz) (hb : s.status.busy = false) :
      HostWrite space index data s
        { s with ibuf := Memory.write s.ibuf index.toNat (data.setWidth 8) }
  | dropped (hp : idleOnly space index) (hb : s.status.busy = true) :
      HostWrite space index data s (dropWrite s)
  | ignored (hp : (space = 0#3 ∧ 7 ≤ index.toNat) ∨ space ∈ [2#3, 3#3, 4#3]) :
      HostWrite space index data s s

/-- A write that only an idle engine takes is dropped or taken. -/
theorem HostWrite.of_writeIfIdle {f : State → State} (hp : idleOnly space index)
    (hf : s.status.busy = false → HostWrite space index data s (f s)) :
    HostWrite space index data s (writeIfIdle f s) := by
  rw [writeIfIdle]
  split
  · exact .dropped hp ‹_›
  · exact hf (Bool.eq_false_of_not_eq_true ‹_›)

theorem HostWrite.of_csrWrite {r : Csr} (hi : index.toNat = r.index) :
    HostWrite 0#3 index data s (csrWrite r data s) := by
  obtain rfl : index = BitVec.ofNat 32 r.index := BitVec.eq_of_toNat_eq (by
    cases r <;> simpa [Csr.index] using hi)
  cases r with
  | cmd => exact .of_writeIfIdle (.inl ⟨rfl, by decide⟩) (.issue ⟨rfl, rfl⟩)
  | status => exact .status ⟨rfl, rfl⟩
  | config => exact .config ⟨rfl, rfl⟩
  | len | origin | arg0 | arg1 =>
    rw [csrWrite]
    refine .of_writeIfIdle (.inl ⟨rfl, by decide⟩) fun hb => ?_
    exact .operand _ _ _ _ ⟨rfl, by decide⟩ hb
  | result | olen | errinfo | errpos | cap | alpha | id =>
    exact .ignored (.inl ⟨rfl, by decide⟩)

theorem HostWrite.of_hostWriteAt {sp : Space} (h : reach space index s = some sp) :
    HostWrite space index data s (hostWriteAt sp index.toNat data s) := by
  obtain ⟨hs, hi⟩ := (reach_eq_some_iff _ _ _).1 h
  rw [Space.ofNumber_eq_some_iff] at hs
  cases sp with
  | csr =>
    obtain rfl : space = 0#3 := by simpa using hs
    rw [hostWriteAt]
    split
    · exact .of_csrWrite (Csr.index_of_ofIndex ‹_›)
    · have : 14 ≤ index.toNat := (Csr.ofIndex_eq_none_iff _).1 ‹_›
      exact .ignored (.inl ⟨rfl, by omega⟩)
  | ibuf =>
    obtain rfl : space = 1#3 := by simpa using hs
    exact .of_writeIfIdle (f := fun s => _) (.inr rfl) (.input rfl hi)
  | obuf | ord | lst => exact .ignored (.inr (by simp_all))

/-! ### The engine -/

/-- What every completion of a command does and leaves, whether it commits or raises an error
(60_exceptions R174; 20_memory R68). -/
structure State.CompletedFrom (t s : State) : Prop where
  busy : t.status.busy = false
  done : t.status.done = true
  haz : t.status.haz = s.status.haz
  cmd : t.cmd = s.cmd
  ie : t.ie = s.ie
  arg0 : t.arg0 = s.arg0
  arg1 : t.arg1 = s.arg1
  cap : t.cap = s.cap
  alpha : t.alpha = s.alpha
  moves : t.moves = s.moves
  port : t.port = s.port

theorem raiseError_completedFrom (e : ErrCode) (info pos : Word) (s : State) :
    (raiseError e info pos s).CompletedFrom s := by
  constructor <;> rfl

theorem exec_completedFrom {i : Instr} (h : exec i s = .next t) : t.CompletedFrom s := by
  rcases exec_eq_next_cases h with ⟨e, info, pos, rfl⟩ | ⟨u, rfl, hu⟩
  · exact raiseError_completedFrom e info pos s
  · obtain ⟨hst, -, -, hcmd, hie, h0, h1, hcap, halpha, hmoves, hport⟩ := hu
    exact ⟨rfl, rfl, congrArg (·.haz) hst, hcmd, hie, h0, h1, hcap, halpha, hmoves, hport⟩

theorem engineStep_completedFrom (h : engineStep s = .next t) (hb : s.status.busy = true) :
    t.CompletedFrom s := by
  cases hd : decode s.cmd with
  | legal i => exact exec_completedFrom (engineStep_of_legal hb hd ▸ h)
  | illegal why =>
    cases (engineStep_of_illegal hb hd).symm.trans h
    exact raiseError_completedFrom _ _ _ _

/-! ### Turns -/

/-- The turn is the engine's (log 2). -/
abbrev State.engineTurn (s : State) : Prop := s.moves = [] ∨ ∃ rest, s.moves = .engine :: rest

/-- The state in which the turn is taken: its move has left the list. -/
@[simp] abbrev State.inTurn (s : State) : State := { s with moves := s.moves.tail }

theorem State.inTurn_of_nil (h : s.moves = []) : s.inTurn = s := by
  cases s
  cases h
  rfl

theorem State.inTurn_of_cons {m : Move} {rest : List Move} (h : s.moves = m :: rest) :
    s.inTurn = { s with moves := rest } := by
  rw [State.inTurn, h, List.tail_cons]

theorem step_of_engineTurn (h : s.engineTurn) : step s = engineStep s.inTurn := by
  rcases h with h | ⟨rest, h⟩
  · rw [step_of_nil h, State.inTurn_of_nil h]
  · rw [step_of_engine h, State.inTurn_of_cons h]

/-- On the engine's turn a busy engine completes its command. -/
theorem step_completedFrom (h : step s = .next t) (hm : s.engineTurn) (hb : s.status.busy = true) :
    t.CompletedFrom s.inTurn :=
  engineStep_completedFrom (step_of_engineTurn hm ▸ h) hb

theorem step_write_eq_next {rest : List Move} (h : step s = .next t)
    (hm : s.moves = .host (.write space index data) :: rest) :
    ∃ u, HostWrite space index data s.inTurn u ∧ t = { u with port := .okay } := by
  rw [step_of_host hm, ← State.inTurn_of_cons hm] at h
  obtain ⟨sp, hsp, rfl⟩ := (transact_write_eq_next_iff _ _ _ _).1 h
  exact ⟨_, .of_hostWriteAt hsp, rfl⟩

/-- The ways a step answers a next state. -/
inductive Turn (s : State) : State → Prop where
  | idle (hm : s.engineTurn) (hb : s.status.busy = false) : Turn s s.inTurn
  | completion {t : State} (hm : s.engineTurn) (hb : s.status.busy = true)
      (h : engineStep s.inTurn = .next t) : Turn s t
  | read {space : BitVec 3} {index : Word} {rest : List Move} (v : Word)
      (hm : s.moves = .host (.read space index) :: rest) :
      Turn s { s.inTurn with port := .data v }
  | write {space : BitVec 3} {index data : Word} {rest : List Move} {u : State}
      (hm : s.moves = .host (.write space index data) :: rest)
      (hu : HostWrite space index data s.inTurn u) : Turn s { u with port := .okay }
  | reset {rest : List Move} (hm : s.moves = .reset :: rest) : Turn s (resetMachine s.inTurn)

theorem Turn.of_engine (hm : s.engineTurn) (h : step s = .next t) : Turn s t := by
  rw [step_of_engineTurn hm] at h
  cases hb : s.status.busy with
  | false =>
    cases (engineStep_of_idle (s := s.inTurn) hb).symm.trans h
    exact .idle hm hb
  | true => exact .completion hm hb h

theorem Turn.of_step (h : step s = .next t) : Turn s t := by
  match hm : s.moves with
  | [] => exact .of_engine (.inl hm) h
  | .engine :: rest => exact .of_engine (.inr ⟨rest, hm⟩) h
  | .host (.read space index) :: rest =>
    rw [step_of_host hm, ← State.inTurn_of_cons hm] at h
    obtain ⟨v, rfl⟩ := transact_read_eq_next h
    exact .read v hm
  | .host (.write space index data) :: rest =>
    obtain ⟨u, hu, rfl⟩ := step_write_eq_next h hm
    exact .write hm hu
  | .reset :: rest =>
    rw [step_of_reset hm, ← State.inTurn_of_cons hm] at h
    cases h
    exact .reset hm

end Sys2Proof.Machine
end

/-! ## The invariant -/

section

namespace Sys2Proof.Machine

open scoped List

variable {s t : State}

/-! ### The recency list (10_state R46) -/

theorem moveToFront_perm (l : List Byte) (k : Nat) : (moveToFront l k).Perm l := by
  cases hx : l[k]? with
  | none => rw [moveToFront, hx]
  | some x =>
    obtain ⟨hk, rfl⟩ := List.getElem?_eq_some_iff.1 hx
    calc moveToFront l k = l[k] :: (l.take k ++ l.drop (k + 1)) := moveToFront_of_getElem? hx
      _ ~ l.take k ++ l[k] :: l.drop (k + 1) := List.perm_middle.symm
      _ = l := by rw [← List.drop_eq_getElem_cons hk, List.take_append_drop]

theorem mtfEncode_perm (l x : List Byte) : (mtfEncode l x).2.Perm l := by
  induction x generalizing l with
  | nil => exact .refl l
  | cons v x ih => exact (ih _).trans (moveToFront_perm l _)

theorem mtfDecode_perm (l x : List Byte) : (mtfDecode l x).2.Perm l := by
  induction x generalizing l with
  | nil => exact .refl l
  | cons v x ih => exact (ih _).trans (moveToFront_perm l _)

/-! ### What the checks of the commands establish -/

theorem checkCmpr_eq_ok {b : List Byte} (h : checkCmpr s = .ok b) :
    s.len.toNat ≤ s.nmax ∧ s.inputIs b := by
  simp only [checkCmpr, Check.bind_eq_ok_iff, checkLen_eq_ok_iff, readInput_eq_ok_iff] at h
  obtain ⟨-, hn, -, -, -, -, hb⟩ := h
  exact ⟨hn, hb⟩

theorem checkMtf_eq_ok {code : ErrCode} {x : List Byte} (h : checkMtf code s = .ok x) :
    s.len.toNat ≤ s.bufsz ∧ s.inputIs x := by
  simp only [checkMtf, Check.bind_eq_ok_iff, readStream_eq_ok_iff] at h
  obtain ⟨x, hx, -, -, ⟨⟩⟩ := h
  exact hx

theorem checkBwtd_eq_ok {b : List Byte} (h : checkBwtd s = .ok b) :
    s.len.toNat ≤ s.nmax ∧ s.inputIs b := by
  simp only [checkBwtd, Check.bind_eq_ok_iff, checkLen_eq_ok_iff, readInput_eq_ok_iff] at h
  obtain ⟨-, hn, -, -, hb⟩ := h
  exact ⟨hn, hb⟩

theorem checkBwtdS_eq_ok {p : Word × List Byte} (h : checkBwtdS s = .ok p) :
    s.len.toNat ≤ s.nmax + 4 ∧ p.2.length = s.len.toNat - 4 := by
  simp only [checkBwtdS, Check.bind_eq_ok_iff, checkLen_eq_ok_iff, readInput_eq_ok_iff] at h
  obtain ⟨-, hn, -, -, -, -, -, -, t, ⟨ht, -⟩, ⟨⟩⟩ := h
  exact ⟨hn, ht⟩

/-! ### The writes of the commit phases -/

/-- A number of bytes that fits the output buffer fits a register (00_scope R7, R8). -/
theorem State.Inv.toNat_of_le_bufsz (h : s.Inv) {n : Nat} (hn : n ≤ s.bufsz) :
    (BitVec.ofNat 32 n).toNat = n := by
  obtain ⟨-, hcap⟩ := h.capRange
  rw [State.bufsz] at hn
  rw [BitVec.toNat_ofNat]
  omega

theorem putOrder_inv (h : s.Inv) {order : List Nat} (hn : order.length ≤ s.nmax) :
    (putOrder order s).Inv :=
  { h with
    ordForm :=
      ⟨Memory.wf_writeMany h.ordForm.1 _ _,
        Memory.below_writeMany h.ordForm.2 (by simpa using hn)⟩ }

theorem putOutput_inv (h : s.Inv) {ys : List Byte} (hn : ys.length ≤ s.bufsz) :
    (putOutput ys s).Inv :=
  { h with
    obufForm :=
      ⟨Memory.wf_writeMany h.obufForm.1 _ _,
        Memory.below_writeMany h.obufForm.2 (by simpa using hn)⟩
    olenRange := by
      rw [putOutput_olen, h.toNat_of_le_bufsz hn]
      exact hn
    outputWritten := fun a ha => by
      rw [putOutput_olen, h.toNat_of_le_bufsz hn] at ha
      rw [putOutput_obuf, Memory.read_writeMany, if_pos (by omega)]
      simpa using ha }

theorem putInput_inv (h : s.Inv) {vs : List Byte} (hn : vs.length ≤ s.bufsz) :
    (putInput vs s).Inv :=
  { h with
    ibufForm :=
      ⟨Memory.wf_writeMany h.ibufForm.1 _ _,
        Memory.below_writeMany h.ibufForm.2 (by simpa using hn)⟩ }

theorem putOrigin_inv (h : s.Inv) (r : Word) : (putOrigin r s).Inv := { h with }

theorem putResult_inv (h : s.Inv) (o : Ordering) : (putResult (resultWord o) s).Inv :=
  { h with resultLegal := by cases o <;> simp [resultWord] }

theorem putList_inv (h : s.Inv) {l : List Byte} (hl : l.Perm (identityList s.alpha.toNat)) :
    (putList l s).Inv :=
  { h with lstPerm := hl }

theorem putCounters_inv (h : s.Inv) {c : List Nat} (hc : c.length = 256) : (putCounters c s).Inv :=
  { h with cntSize := hc }

/-! ### The commits -/

theorem commitBwte_inv (h : s.Inv) {out : Word → List Byte → List Byte} {b : List Byte}
    (hb : b.length ≤ s.nmax) (ho : ∀ r, (out r (transform b)).length ≤ s.bufsz) :
    (commitBwte out b s).Inv :=
  putOutput_inv (putOrigin_inv (putOrder_inv h (by simpa using hb)) _) (ho _)

theorem commitBwtd_inv (h : s.Inv) (r : Word) {v : List Byte} (hv : v.length ≤ s.nmax) :
    (commitBwtd r v s).Inv := by
  by_cases h0 : v.length = 0
  · rw [List.eq_nil_of_length_eq_zero h0, commitBwtd_nil]
    exact putOutput_inv h (Nat.zero_le _)
  · have hord : (putOrder (successors v) (putCounters (countingSort v).2 s)).Inv :=
      putOrder_inv (putCounters_inv h (by simp)) (by rwa [successors_length])
    rw [commitBwtd_of_pos h0]
    refine putOutput_inv hord ?_
    rw [inverseBwt_length]
    exact Nat.le_add_right_of_le hv

theorem commitMtf_inv (h : s.Inv) {p : List Byte × List Byte} (hn : p.1.length ≤ s.bufsz)
    (hl : p.2.Perm (identityList s.alpha.toNat)) : (commitMtf p s).Inv :=
  putList_inv (putOutput_inv h hn) hl

/-! ### Issue, completion and reset -/

theorem issue_inv (h : s.Inv) (w : Word) : (issue w s).Inv :=
  { h with
    errcodeIff := by simp
    errcodeLegal := by simp
    busyClear := by simp }

theorem complete_inv (h : s.Inv) : (complete s).Inv :=
  { h with busyClear := by simp }

theorem raiseError_inv (h : s.Inv) (e : ErrCode) (info pos : Word) :
    (raiseError e info pos s).Inv :=
  { h with
    errcodeIff := by simp [e.number_ne_zero]
    errcodeLegal := e.number_le
    busyClear := by simp }

theorem dropWrite_inv (h : s.Inv) : (dropWrite s).Inv := { h with }

theorem State.resetFor_inv {cap alpha : Word} (hc : 1 ≤ cap.toNat ∧ cap.toNat ≤ 2 ^ 31)
    (ha : 1 ≤ alpha.toNat ∧ alpha.toNat ≤ 256) : (State.resetFor cap alpha).Inv where
  capRange := hc
  alphaRange := ha
  ibufForm := ⟨.nil, List.forall_mem_nil _⟩
  obufForm := ⟨.nil, List.forall_mem_nil _⟩
  ordForm := ⟨.nil, List.forall_mem_nil _⟩
  lstPerm := .refl _
  cntSize := List.length_replicate
  olenRange := Nat.zero_le _
  outputWritten := fun a ha => absurd ha a.not_lt_zero
  errcodeIff := ⟨fun _ => rfl, fun _ => rfl⟩
  errcodeLegal := Nat.zero_le _
  busyClear := nofun
  resultLegal := .inr (.inl rfl)

theorem resetMachine_inv (h : s.Inv) : (resetMachine s).Inv :=
  { State.resetFor_inv h.capRange h.alphaRange with }

/-! ### Commands, host writes and turns -/

theorem runCommand_inv {α : Type} {c : Check α} {k : α → State → State} (h : s.Inv)
    (hk : ∀ a, c = .ok a → (k a s).Inv) (ht : runCommand c k s = .next t) : t.Inv := by
  rcases (runCommand_eq_next_iff _ _ _ _).1 ht with ⟨a, ha, rfl⟩ | ⟨e, info, pos, -, rfl⟩
  · exact complete_inv (hk a ha)
  · exact raiseError_inv h e info pos

theorem execNop_inv (h : s.Inv) (ht : execNop s = .next t) : t.Inv :=
  runCommand_inv h (fun _ _ => h) ht

theorem execSort_inv (h : s.Inv) (ht : execSort s = .next t) : t.Inv := by
  refine runCommand_inv h (fun b hb => putOrder_inv h ?_) ht
  obtain ⟨hn, hl, -⟩ := (readBlock_eq_ok_iff _ _).1 hb
  rw [sortOrder_length, hl]
  exact hn

theorem execCmpr_inv (h : s.Inv) (ht : execCmpr s = .next t) : t.Inv :=
  runCommand_inv h (fun _ _ => putResult_inv h _) ht

theorem execBwte_inv (h : s.Inv) (ht : execBwte s = .next t) : t.Inv := by
  refine runCommand_inv h (fun b hb => ?_) ht
  obtain ⟨hn, hl, -⟩ := (readBlock_eq_ok_iff _ _).1 hb
  refine commitBwte_inv h (hl ▸ hn) fun r => ?_
  rw [transform_length, State.bufsz]
  omega

theorem execBwteS_inv (h : s.Inv) (ht : execBwteS s = .next t) : t.Inv := by
  refine runCommand_inv h (fun b hb => ?_) ht
  obtain ⟨hn, hl, -⟩ := (readBlock_eq_ok_iff _ _).1 hb
  refine commitBwte_inv h (hl ▸ hn) fun r => ?_
  rw [List.length_append, transform_length, State.bufsz]
  show 4 + b.length ≤ s.nmax + 4
  omega

theorem execBwtd_inv (h : s.Inv) (ht : execBwtd s = .next t) : t.Inv := by
  refine runCommand_inv h (fun v hv => ?_) ht
  obtain ⟨hn, hl, -⟩ := checkBwtd_eq_ok hv
  exact commitBwtd_inv h _ (hl ▸ hn)

theorem execBwtdS_inv (h : s.Inv) (ht : execBwtdS s = .next t) : t.Inv := by
  refine runCommand_inv h (fun p hp => ?_) ht
  obtain ⟨hn, hl⟩ := checkBwtdS_eq_ok hp
  exact putOrigin_inv (commitBwtd_inv h _ (by omega)) _

/-- The four forms of MTFE and MTFD keep the invariant: the output is as long as the stream and the
list is a permutation of the one it started from. -/
theorem runMtf_inv {code : ErrCode} {l : List Byte}
    {f : List Byte → List Byte → List Byte × List Byte} (h : s.Inv)
    (hlen : ∀ x, (f l x).1.length = x.length) (hperm : ∀ x, (f l x).2.Perm l)
    (hl : l.Perm (identityList s.alpha.toNat))
    (ht : runCommand (checkMtf code s) (fun x => commitMtf (f l x)) s = .next t) : t.Inv := by
  refine runCommand_inv h (fun x hx => ?_) ht
  obtain ⟨hn, hx, -⟩ := checkMtf_eq_ok hx
  exact commitMtf_inv h (by rw [hlen, hx]; exact hn) ((hperm x).trans hl)

theorem execMtfi_inv (h : s.Inv) (ht : execMtfi s = .next t) : t.Inv :=
  runCommand_inv h (fun _ _ => putList_inv h (.refl _)) ht

theorem execMove_inv (h : s.Inv) (ht : execMove s = .next t) : t.Inv := by
  refine runCommand_inv h (fun v hv => putInput_inv h ?_) ht
  rw [((memRead_eq_ok_iff _ _ _ _ _).1 hv).1]
  exact h.olenRange

theorem exec_inv {i : Instr} (h : s.Inv) (ht : exec i s = .next t) : t.Inv := by
  cases i with
  | nop => exact execNop_inv h ht
  | sort => exact execSort_inv h ht
  | cmpr => exact execCmpr_inv h ht
  | bwte => exact execBwte_inv h ht
  | bwteS => exact execBwteS_inv h ht
  | bwtd => exact execBwtd_inv h ht
  | bwtdS => exact execBwtdS_inv h ht
  | mtfe => exact runMtf_inv h (mtfEncode_length _) (mtfEncode_perm _) (.refl _) ht
  | mtfeC => exact runMtf_inv h (mtfEncode_length _) (mtfEncode_perm _) h.lstPerm ht
  | mtfd => exact runMtf_inv h (mtfDecode_length _) (mtfDecode_perm _) (.refl _) ht
  | mtfdC => exact runMtf_inv h (mtfDecode_length _) (mtfDecode_perm _) h.lstPerm ht
  | mtfi => exact execMtfi_inv h ht
  | move => exact execMove_inv h ht

theorem engineStep_inv (h : s.Inv) (ht : engineStep s = .next t) : t.Inv := by
  rw [engineStep] at ht
  split at ht
  · split at ht
    · exact exec_inv h ht
    · cases ht
      exact raiseError_inv h _ _ _
  · cases ht
    exact h

/-- A STATUS write clears ERR and ERRCODE together and sets nothing. -/
theorem writeOneToClear_inv (h : s.Inv) (data : Word) :
    State.Inv { s with status := s.status.writeOneToClear data } :=
  { h with
    errcodeIff := by
      rw [Status.writeOneToClear_eq]
      cases data.getLsbD 2
      · simpa using h.errcodeIff
      · simp
    errcodeLegal := by
      rw [Status.writeOneToClear_eq]
      cases data.getLsbD 2
      · exact h.errcodeLegal
      · exact Nat.zero_le 7
    busyClear := fun hb => by
      rw [Status.writeOneToClear_eq] at hb ⊢
      obtain ⟨hd, he, hi, hp⟩ := h.busyClear hb
      simp [hd, he, hi, hp] }

theorem HostWrite.inv {space : BitVec 3} {index data : Word} (h : s.Inv)
    (hw : HostWrite space index data s t) : t.Inv := by
  cases hw with
  | issue => exact issue_inv h data
  | status => exact writeOneToClear_inv h data
  | config => exact { h with }
  | operand => exact { h with }
  | input _ hi =>
    exact
      { h with
        ibufForm :=
          ⟨Memory.wf_write h.ibufForm.1 _ _, Memory.below_write h.ibufForm.2 hi _⟩ }
  | dropped => exact dropWrite_inv h
  | ignored => exact h

theorem Turn.inv (h : s.Inv) (ht : Turn s t) : t.Inv := by
  have hin : s.inTurn.Inv := { h with }
  cases ht with
  | idle => exact hin
  | completion _ _ he => exact engineStep_inv hin he
  | read => exact { h with }
  | write _ hw => exact { hw.inv hin with }
  | reset => exact resetMachine_inv hin

/-- Settles O58: by `Turn`, the invariant is kept by every command, host write and reset. -/
theorem stepKeepsTheInvariant : Obligations.StepKeepsTheInvariant :=
  fun _ _ h hstep => (Turn.of_step hstep).inv h

end Sys2Proof.Machine
end

/-! ## Transactions with the registers, from the side of the host -/

section

namespace Sys2Proof.Machine

variable {s : State} {rest : List Move}

theorem writeIfIdle_of_idle {f : State → State} (hb : s.status.busy = false) :
    writeIfIdle f s = f s := by
  simp [writeIfIdle, hb]

theorem step_of_write {sp : Space} {space : BitVec 3} {index data : Word}
    (hs : Space.ofNumber space = some sp) (hi : index.toNat < sp.size s)
    (hm : s.moves = .host (.write space index data) :: rest) :
    step s =
      .next { hostWriteAt sp index.toNat data { s with moves := rest } with port := .okay } := by
  rw [step_of_host hm]
  refine (transact_write_eq_next_iff _ _ _ _).2 ⟨sp, (reach_eq_some_iff _ _ _).2 ⟨hs, ?_⟩, rfl⟩
  cases sp <;> exact hi

/-- An index that names a register is in range. -/
theorem Csr.lt_of_ofIndex {i : Nat} {r : Csr} (hr : Csr.ofIndex i = some r) : i < 14 := by
  by_contra hi
  rw [(Csr.ofIndex_eq_none_iff i).2 (Nat.le_of_not_lt hi)] at hr
  cases hr

theorem step_of_csrWrite {r : Csr} {index data : Word} (hr : Csr.ofIndex index.toNat = some r)
    (hm : s.moves = .host (.write 0#3 index data) :: rest) :
    step s = .next { csrWrite r data { s with moves := rest } with port := .okay } := by
  rw [step_of_write (sp := .csr) rfl (Csr.lt_of_ofIndex hr) hm, hostWriteAt, hr]

/-- An idle engine takes a write of CMD or of an operand register. -/
theorem step_of_idle_csrWrite {r : Csr} {index data : Word} {f : State → State}
    (hr : Csr.ofIndex index.toNat = some r) (hf : ∀ u, csrWrite r data u = writeIfIdle f u)
    (hb : s.status.busy = false) (hm : s.moves = .host (.write 0#3 index data) :: rest) :
    step s = .next { f { s with moves := rest } with port := .okay } := by
  rw [step_of_csrWrite hr hm, hf, writeIfIdle_of_idle (s := { s with moves := rest }) hb]

/-- CMD of an idle engine takes any word and issues it (10_state R24). -/
theorem step_of_issue {w : Word} (hb : s.status.busy = false)
    (hm : s.moves = .host (.write 0#3 0#32 w) :: rest) :
    step s = .next { issue w { s with moves := rest } with port := .okay } :=
  step_of_idle_csrWrite (r := .cmd) rfl (fun _ => rfl) hb hm

theorem csrRead_moves (r : Csr) : csrRead { s with moves := rest } r = csrRead s r := by
  cases r <;> rfl

/-- A read of a register whose reads are fixed while BUSY = 1 answers at any time (70_reset R195). -/
theorem step_of_csrRead {r : Csr} {index : Word} (hr : Csr.ofIndex index.toNat = some r)
    (hf : r.fixedWhileBusy = true) (hm : s.moves = .host (.read 0#3 index) :: rest) :
    step s = .next { s with moves := rest, port := .data (csrRead s r) } := by
  have hreach : reach 0#3 index { s with moves := rest } = some .csr :=
    (reach_eq_some_iff _ _ _).2 ⟨rfl, Csr.lt_of_ofIndex hr⟩
  rw [step_of_host hm, transact, hreach]
  simp [hostReadAt, readCsr, hr, hf, csrRead_moves]

/-! ### STATUS and CONFIG as words -/

/-- The layout of STATUS (10_state R25), by its 256 values. -/
theorem Status.toWord_layout (st : Status) :
    st.toWord.getLsbD 0 = st.busy ∧ st.toWord.getLsbD 1 = st.done ∧ st.toWord.getLsbD 2 = st.err ∧
    st.toWord.getLsbD 3 = st.haz ∧ st.toWord.extractLsb' 4 4 = 0#4 ∧
    st.toWord.extractLsb' 8 4 = st.errcode ∧ st.toWord.extractLsb' 12 20 = 0#20 := by
  obtain ⟨busy, done, err, haz, errcode⟩ := st
  revert busy done err haz errcode
  decide

theorem configWord_eq (ie : Bool) :
    configWord ie = if ie then 0x00000001#32 else 0x00000000#32 := by
  cases ie <;> rfl

/-! ### The obligations -/

/-- Settles O41: the layout of the word, and the write field by field. -/
theorem statusReadsAndClearsByItsLayout : Obligations.StatusReadsAndClearsByItsLayout := by
  refine ⟨rfl, fun s rest => ⟨fun hm => ?_, fun data hm => ?_⟩⟩
  · exact ⟨_, step_of_csrRead (r := .status) rfl rfl hm, s.status.toWord_layout⟩
  · rw [step_of_csrWrite (r := .status) rfl hm, csrWrite, Status.writeOneToClear_eq]

/-- Settles O43: an idle engine takes the write. -/
theorem idleWritesStoreTheirData : Obligations.IdleWritesStoreTheirData := by
  refine fun s data index rest hb =>
    ⟨fun hm => ?_, fun hm => ?_, fun hm => ?_, fun hm => ?_, fun hm hi => ?_⟩
  · exact step_of_idle_csrWrite (r := .len) (f := fun s => { s with len := data })
      rfl (fun _ => rfl) hb hm
  · exact step_of_idle_csrWrite (r := .origin) (f := fun s => { s with origin := data })
      rfl (fun _ => rfl) hb hm
  · exact step_of_idle_csrWrite (r := .arg0) (f := fun s => { s with arg0 := data })
      rfl (fun _ => rfl) hb hm
  · exact step_of_idle_csrWrite (r := .arg1) (f := fun s => { s with arg1 := data })
      rfl (fun _ => rfl) hb hm
  · rw [step_of_write (sp := .ibuf) rfl hi hm, hostWriteAt,
      writeIfIdle_of_idle (s := { s with moves := rest }) hb]
    refine ⟨_, rfl, rfl, Memory.read_write_self _ _ _, fun a ha => ?_⟩
    rw [Memory.read_write, if_neg ha.symm]

theorem HostWrite.cmd_eq {space : BitVec 3} {index data : Word} {t : State}
    (hw : HostWrite space index data s t) :
    t.cmd = s.cmd ∨ (space = 0#3 ∧ index = 0#32 ∧ t.cmd = data) := by
  cases hw with
  | issue hp => exact .inr ⟨hp.1, hp.2, rfl⟩
  | status | config | operand | input | dropped | ignored => exact .inl rfl

/-- Settles O40: `issue` on the CMD write, and `Turn` for the changes of CMD. -/
theorem cmdWriteIssuesTheWord : Obligations.CmdWriteIssuesTheWord := by
  refine ⟨fun s w rest hb hm => step_of_issue hb hm,
    fun s rest hm => step_of_csrRead (r := .cmd) rfl rfl hm, fun s t h hne => ?_, rfl⟩
  cases Turn.of_step h with
  | idle | read => exact absurd rfl hne
  | completion _ hb he => exact absurd (engineStep_completedFrom he hb).cmd hne
  | write hm hw =>
    rcases hw.cmd_eq with heq | ⟨rfl, rfl, rfl⟩
    · exact absurd heq hne
    · exact .inl ⟨_, hm⟩
  | reset hm => exact .inr ⟨_, hm, rfl⟩

end Sys2Proof.Machine
end

/-! ## What stays and what changes over a step -/

section

namespace Sys2Proof.Machine

variable {s t : State} {space : BitVec 3} {index data : Word}

/-! ### Constants (10_state R39 to R41) -/

theorem HostWrite.constants (hw : HostWrite space index data s t) :
    t.cap = s.cap ∧ t.alpha = s.alpha := by
  cases hw <;> exact ⟨rfl, rfl⟩

theorem Turn.constants (ht : Turn s t) : t.cap = s.cap ∧ t.alpha = s.alpha := by
  cases ht with
  | completion _ hb he =>
    have hc := engineStep_completedFrom he hb
    exact ⟨hc.cap, hc.alpha⟩
  | write _ hw => exact hw.constants
  | idle | read | reset => exact ⟨rfl, rfl⟩

/-- Settles O53: `Turn` for CAP and ALPHA, and the read of a hard-wired register for ID. -/
theorem constantRegistersNeverChange : Obligations.ConstantRegistersNeverChange :=
  ⟨fun _ _ h => (Turn.of_step h).constants,
    fun _ _ hm => step_of_csrRead (r := .id) rfl rfl hm,
    State.reset_nmax, Nat.le_add_left 1 _, Config.nmax_le, rfl⟩

/-! ### BUSY (10_state R26) -/

theorem HostWrite.busy_eq (hw : HostWrite space index data s t) :
    t.status.busy = s.status.busy ∨ (space = 0#3 ∧ index = 0#32 ∧ t.status.busy = true) := by
  cases hw with
  | issue hp => exact .inr ⟨hp.1, hp.2, rfl⟩
  | status =>
    rw [Status.writeOneToClear_eq]
    exact .inl rfl
  | config | operand | input | dropped | ignored => exact .inl rfl

theorem Turn.busy_cases (ht : Turn s t) :
    t.status.busy = s.status.busy ∨
    (t.status.busy = true ∧ ∃ w rest, s.moves = .host (.write 0#3 0#32 w) :: rest) ∨
    (t.status.busy = false ∧
      (s.moves = [] ∨ (∃ rest, s.moves = .engine :: rest) ∨ ∃ rest, s.moves = .reset :: rest)) := by
  cases ht with
  | idle | read => exact .inl rfl
  | completion hm hb he =>
    exact .inr (.inr ⟨(engineStep_completedFrom he hb).busy, hm.imp_right .inl⟩)
  | write hm hw =>
    rcases hw.busy_eq with heq | ⟨rfl, rfl, hb⟩
    · exact .inl heq
    · exact .inr (.inl ⟨hb, _, _, hm⟩)
  | reset hm => exact .inr (.inr ⟨rfl, .inr (.inr ⟨_, hm⟩)⟩)

/-- Settles O50, by the ways a turn can set BUSY. -/
theorem busyChangesOnlyByIssueAndCompletion : Obligations.BusyChangesOnlyByIssueAndCompletion := by
  refine fun s t h => ⟨fun hs ht => ?_, fun hs ht => ?_, fun hb hm => ?_⟩
  · simpa [hs, ht] using (Turn.of_step h).busy_cases
  · simpa [hs, ht] using (Turn.of_step h).busy_cases
  · have hc := step_completedFrom h hm hb
    exact ⟨hc.busy, hc.done⟩

/-! ### irq (10_state R50) -/

/-- Settles O54: each clause by the state that its turn leads to. -/
theorem irqFollowsDoneAndEnable : Obligations.IrqFollowsDoneAndEnable := by
  refine ⟨fun s => by rw [State.irq, Bool.and_eq_true], fun s t h =>
    ⟨fun hb hm => ?_, fun w rest hm hb => ?_, fun data rest hm hd => ?_, fun data rest hm hd => ?_⟩⟩
  · have hc := step_completedFrom h hm hb
    rw [State.irq, hc.done, hc.ie, Bool.true_and]
  · cases (step_of_issue hb hm).symm.trans h
    rfl
  · cases (step_of_csrWrite (r := .status) rfl hm).symm.trans h
    simp [State.irq, csrWrite, Status.writeOneToClear_eq, hd]
  · cases (step_of_csrWrite (r := .config) rfl hm).symm.trans h
    simp only [State.irq, csrWrite, hd, Bool.and_false]

/-! ### HAZ (10_state R29) -/

/-- A busy engine drops every write that only an idle one takes (70_reset R194). -/
theorem HostWrite.eq_dropWrite (hw : HostWrite space index data s t) (hb : s.status.busy = true)
    (hp : idleOnly space index) : t = dropWrite s := by
  cases hw with
  | dropped => rfl
  | issue _ hi | operand _ _ _ _ _ hi | input _ _ hi => exact absurd (hb.symm.trans hi) (by decide)
  | status hq | config hq =>
    obtain ⟨rfl, rfl⟩ := hq
    exact absurd hp (by decide)
  | ignored hq =>
    rcases hp with ⟨rfl, hi⟩ | rfl
    · have hlt : ∀ i ∈ [0#32, 3#32, 4#32, 5#32, 6#32], i.toNat < 7 := by simp
      have := hlt index hi
      rcases hq with ⟨-, h7⟩ | hq
      · omega
      · exact absurd hq (by decide)
    · exact absurd hq (by simp)

theorem HostWrite.haz_cases (hw : HostWrite space index data s t) :
    t.status.haz = s.status.haz ∨
    (t.status.haz = true ∧ s.status.busy = true ∧ idleOnly space index) ∨
    (t.status.haz = (s.status.haz && !data.getLsbD 3) ∧ space = 0#3 ∧ index = 1#32) := by
  cases hw with
  | dropped hp hb => exact .inr (.inl ⟨rfl, hb, hp⟩)
  | status hp => exact .inr (.inr ⟨by rw [Status.writeOneToClear_eq], hp⟩)
  | issue | config | operand | input | ignored => exact .inl rfl

theorem Turn.haz_cases (ht : Turn s t) :
    t.status.haz = s.status.haz ∨
    (t.status.haz = true ∧ s.status.busy = true ∧ ∃ space index data rest,
      s.moves = .host (.write space index data) :: rest ∧ idleOnly space index) ∨
    (∃ data rest, s.moves = .host (.write 0#3 1#32 data) :: rest ∧
      t.status.haz = (s.status.haz && !data.getLsbD 3)) ∨
    (t.status.haz = false ∧ ∃ rest, s.moves = .reset :: rest) := by
  cases ht with
  | idle | read => exact .inl rfl
  | completion _ hb he => exact .inl (engineStep_completedFrom he hb).haz
  | write hm hw =>
    rcases hw.haz_cases with heq | ⟨hh, hb, hp⟩ | ⟨hh, rfl, rfl⟩
    · exact .inl heq
    · exact .inr (.inl ⟨hh, hb, _, _, _, _, hm, hp⟩)
    · exact .inr (.inr (.inl ⟨_, _, hm, hh⟩))
  | reset hm => exact .inr (.inr (.inr ⟨rfl, _, hm⟩))

/-- Settles O51, by the ways a turn can set HAZ. -/
theorem hazIsSticky : Obligations.HazIsSticky := by
  refine fun s t h => ⟨fun hs ht => ?_, fun hs ht => ?_, fun space index data rest hb hm hp => ?_,
    fun data rest hm hd => ?_, fun rest hm => ?_⟩
  · simpa [hs, ht, idleOnly] using (Turn.of_step h).haz_cases
  · simpa [hs, ht] using (Turn.of_step h).haz_cases
  · obtain ⟨u, hu, rfl⟩ := step_write_eq_next h hm
    rw [hu.eq_dropWrite hb hp, dropWrite_status]
  · cases (step_of_csrWrite (r := .status) rfl hm).symm.trans h
    simp [csrWrite, Status.writeOneToClear_eq, hd]
  · cases (step_of_reset hm).symm.trans h
    rfl

/-! ### LST (10_state R46) -/

theorem runCommand_lstPerm {α : Type} {c : Check α} {k : α → State → State} {l : List Byte}
    (h : s.lst.Perm l) (hk : ∀ a, (k a s).lst.Perm l) (ht : runCommand c k s = .next t) :
    t.lst.Perm l := by
  rcases (runCommand_eq_next_iff _ _ _ _).1 ht with ⟨a, -, rfl⟩ | ⟨e, info, pos, -, rfl⟩
  · exact hk a
  · exact h

theorem commitBwtd_lst (r : Word) (v : List Byte) (s : State) : (commitBwtd r v s).lst = s.lst := by
  rw [commitBwtd]
  split <;> rfl

theorem exec_lstPerm {i : Instr} (h : s.lst.Perm (identityList s.alpha.toNat))
    (ht : exec i s = .next t) : t.lst.Perm (identityList s.alpha.toNat) := by
  cases i <;>
    simp only [exec, execNop, execSort, execCmpr, execBwte, execBwteS, execBwtd, execBwtdS,
      execMtfe, execMtfeC, execMtfd, execMtfdC, execMtfi, execMove] at ht <;>
    refine runCommand_lstPerm h (fun a => ?_) ht
  case nop | sort | cmpr | bwte | bwteS | move => exact h
  case bwtd => exact (commitBwtd_lst _ _ s).symm ▸ h
  case bwtdS => exact (commitBwtd_lst _ _ s).symm ▸ h
  case mtfe => exact mtfEncode_perm _ a
  case mtfeC => exact (mtfEncode_perm _ a).trans h
  case mtfd => exact mtfDecode_perm _ a
  case mtfdC => exact (mtfDecode_perm _ a).trans h
  case mtfi => exact .refl _

theorem engineStep_lstPerm (h : s.lst.Perm (identityList s.alpha.toNat))
    (ht : engineStep s = .next t) : t.lst.Perm (identityList s.alpha.toNat) := by
  rw [engineStep] at ht
  split at ht
  · split at ht
    · exact exec_lstPerm h ht
    · cases ht
      exact h
  · cases ht
    exact h

theorem HostWrite.lst_eq (hw : HostWrite space index data s t) : t.lst = s.lst := by
  cases hw <;> rfl

/-- Settles O59: a reset makes the identity, the MTF commands permute, and nothing else writes LST. -/
theorem recencyListStaysAPermutation : Obligations.RecencyListStaysAPermutation := by
  intro s t h hstep
  cases Turn.of_step hstep with
  | idle | read => exact h
  | completion _ _ he => exact engineStep_lstPerm (s := s.inTurn) h he
  | write _ hw => exact hw.lst_eq.symm ▸ h
  | reset => exact .refl _

/-! ### IE (10_state R30) -/

/-- The state with another interrupt enable. -/
def State.withIe (e : Bool) (s : State) : State := { s with ie := e }

theorem runCommand_withIe {α : Type} {c : Check α} {k k' : α → State → State} (e : Bool)
    (hk : ∀ a, k' a (s.withIe e) = (k a s).withIe e) :
    (∀ t, runCommand c k s = .next t → runCommand c k' (s.withIe e) = .next (t.withIe e)) ∧
    ∀ f, runCommand c k s = .fault f → runCommand c k' (s.withIe e) = .fault f := by
  cases c with
  | ok a =>
    refine ⟨fun t ht => ?_, nofun⟩
    cases ht
    rw [runCommand_ok, hk]
    rfl
  | raise code info pos =>
    refine ⟨fun t ht => ?_, nofun⟩
    cases ht
    rfl
  | fault f => exact ⟨nofun, fun _ h => h⟩

theorem commitBwtd_withIe (r : Word) (v : List Byte) (e : Bool) (s : State) :
    commitBwtd r v (s.withIe e) = (commitBwtd r v s).withIe e := by
  rw [commitBwtd, commitBwtd]
  split <;> rfl

/-- No command reads IE: with another IE its outcome is the same but for that bit. -/
theorem exec_withIe (i : Instr) (s : State) (e : Bool) :
    (∀ t, exec i s = .next t → exec i (s.withIe e) = .next (t.withIe e)) ∧
    ∀ f, exec i s = .fault f → exec i (s.withIe e) = .fault f := by
  cases i <;>
    simp only [exec, execNop, execSort, execCmpr, execBwte, execBwteS, execBwtd, execBwtdS,
      execMtfe, execMtfeC, execMtfd, execMtfdC, execMtfi, execMove] <;>
    refine runCommand_withIe e fun a => ?_
  case bwtd => exact commitBwtd_withIe _ _ _ _
  case bwtdS => exact congrArg (putOrigin a.1) (commitBwtd_withIe _ _ _ _)
  all_goals rfl

/-- Settles O42: the write, the read, and `exec_withIe` for the commands. -/
theorem configIsTheInterruptEnableOnly : Obligations.ConfigIsTheInterruptEnableOnly := by
  refine ⟨fun s data rest hm => step_of_csrWrite (r := .config) rfl hm, fun s rest hm => ?_, rfl,
    fun i s e => exec_withIe i s e⟩
  rw [step_of_csrRead (r := .config) rfl rfl hm, csrRead, configWord_eq]

end Sys2Proof.Machine
end

/-! ## What a command writes (20_memory R68) -/

section

namespace Sys2Proof.Machine

variable {s t u : State} {i : Instr}

/-- The commit of BWTD as one chain of writes: for the empty transform the writes of ORD and OBUF
are empty, and CNT stays. -/
theorem commitBwtd_eq (r : Word) (v : List Byte) (s : State) :
    commitBwtd r v s =
      putOutput (inverseBwt r.toNat v)
        (putOrder (successors v)
          (putCounters (if v.length = 0 then s.cnt else (countingSort v).2) s)) := by
  by_cases h : v.length = 0
  · obtain rfl := List.eq_nil_of_length_eq_zero h
    rfl
  · rw [commitBwtd_of_pos h, if_neg h]

/-- What the commit of a command makes of the state: the writes of its row of the access table, with
the lengths of what it writes to the buffers. -/
inductive Commit (s : State) : Instr → State → Prop where
  | nop : Commit s .nop s
  | sort (order : List Nat) (ho : order.length = s.len.toNat) : Commit s .sort (putOrder order s)
  | cmpr (r : Word) : Commit s .cmpr (putResult r s)
  | bwte {i : Instr} (hi : i ∈ [Instr.bwte, .bwteS]) (order : List Nat) (r : Word) (ys : List Byte)
      (ho : order.length = s.len.toNat) (hy : ys.length ≤ s.bufsz) :
      Commit s i (putOutput ys (putOrigin r (putOrder order s)))
  | bwtd (order : List Nat) (cnt : List Nat) (ys : List Byte)
      (ho : order.length = s.len.toNat) (hy : ys.length ≤ s.bufsz) :
      Commit s .bwtd (putOutput ys (putOrder order (putCounters cnt s)))
  | bwtdS (order : List Nat) (cnt : List Nat) (r : Word) (ys : List Byte)
      (ho : order.length = s.len.toNat - 4) (hy : ys.length ≤ s.bufsz) :
      Commit s .bwtdS (putOrigin r (putOutput ys (putOrder order (putCounters cnt s))))
  | mtf {i : Instr} (hi : i ∈ [Instr.mtfe, .mtfeC, .mtfd, .mtfdC]) (l ys : List Byte)
      (hy : ys.length ≤ s.bufsz) : Commit s i (putList l (putOutput ys s))
  | mtfi (l : List Byte) : Commit s .mtfi (putList l s)
  | move (vs : List Byte) (hv : vs.length = s.olen.toNat) : Commit s .move (putInput vs s)

/-- Both forms of BWTE: at most the four header bytes stand before the transform. -/
theorem Commit.of_bwte {out : Word → List Byte → List Byte} {b : List Byte}
    (hi : i ∈ [Instr.bwte, .bwteS]) (hb : readBlock s = .ok b)
    (ho : ∀ r v, (out r v).length ≤ v.length + 4) : Commit s i (commitBwte out b s) := by
  obtain ⟨hn, hl, -⟩ := (readBlock_eq_ok_iff _ _).1 hb
  refine .bwte hi _ _ _ (by rw [sortOrder_length, hl]) ((ho _ _).trans ?_)
  rw [transform_length, hl]
  exact Nat.add_le_add_right hn 4

theorem Commit.of_bwtd {v : List Byte} (hv : checkBwtd s = .ok v) :
    Commit s .bwtd (commitBwtd s.origin v s) := by
  obtain ⟨hn, hl, -⟩ := checkBwtd_eq_ok hv
  rw [commitBwtd_eq]
  refine .bwtd _ _ _ (by rw [successors_length, hl]) ?_
  rw [inverseBwt_length, hl]
  exact Nat.le_add_right_of_le hn

theorem Commit.of_bwtdS {p : Word × List Byte} (hp : checkBwtdS s = .ok p) :
    Commit s .bwtdS (putOrigin p.1 (commitBwtd p.1 p.2 s)) := by
  obtain ⟨hn, hl⟩ := checkBwtdS_eq_ok hp
  rw [commitBwtd_eq]
  refine .bwtdS _ _ _ _ (by rw [successors_length, hl]) ?_
  rw [inverseBwt_length, hl]
  exact (Nat.sub_le _ _).trans hn

/-- The four forms of MTFE and MTFD: the output is as long as the stream. -/
theorem Commit.of_mtf {code : ErrCode} {x : List Byte} {p : List Byte × List Byte}
    (hi : i ∈ [Instr.mtfe, .mtfeC, .mtfd, .mtfdC]) (hx : checkMtf code s = .ok x)
    (hp : p.1.length = x.length) : Commit s i (commitMtf p s) := by
  obtain ⟨hn, hl, -⟩ := checkMtf_eq_ok hx
  exact .mtf hi _ _ (by rw [hp, hl]; exact hn)

theorem runCommand_commit {α : Type} {c : Check α} {k : α → State → State}
    (h : runCommand c k s = .next t) (hk : ∀ a, c = .ok a → Commit s i (k a s)) :
    (∃ e info pos, t = raiseError e info pos s) ∨ ∃ u, Commit s i u ∧ t = complete u := by
  rcases (runCommand_eq_next_iff _ _ _ _).1 h with ⟨a, ha, rfl⟩ | ⟨e, info, pos, -, rfl⟩
  · exact .inr ⟨_, hk a ha, rfl⟩
  · exact .inl ⟨e, info, pos, rfl⟩

/-- A command that answers a next state has raised one error, or has completed after its commit. -/
theorem exec_commit (h : exec i s = .next t) :
    (∃ e info pos, t = raiseError e info pos s) ∨ ∃ u, Commit s i u ∧ t = complete u := by
  cases i <;> rw [exec] at h
  case nop => exact runCommand_commit h fun _ _ => .nop
  case sort =>
    refine runCommand_commit h fun b hb => .sort _ ?_
    rw [sortOrder_length, ((readBlock_eq_ok_iff _ _).1 hb).2.1]
  case cmpr => exact runCommand_commit h fun _ _ => .cmpr _
  case bwte =>
    exact runCommand_commit h fun _ hb => .of_bwte (by simp) hb fun _ _ => Nat.le_add_right _ 4
  case bwteS =>
    refine runCommand_commit h fun _ hb => .of_bwte (by simp) hb fun r v => ?_
    rw [List.length_append, Nat.add_comm]
    rfl
  case bwtd => exact runCommand_commit h fun _ hv => .of_bwtd hv
  case bwtdS => exact runCommand_commit h fun _ hp => .of_bwtdS hp
  case mtfe | mtfeC =>
    exact runCommand_commit h fun _ hx => .of_mtf (by simp) hx (mtfEncode_length _ _)
  case mtfd | mtfdC =>
    exact runCommand_commit h fun _ hx => .of_mtf (by simp) hx (mtfDecode_length _ _)
  case mtfi => exact runCommand_commit h fun _ _ => .mtfi _
  case move =>
    exact runCommand_commit h fun _ hv => .move _ ((memRead_eq_ok_iff _ _ _ _ _).1 hv).1

/-! ### The write columns -/

/-- The write columns of R68: what the command leaves of `s` in `t`. -/
def State.keepsColumns (i : Instr) (s t : State) : Prop :=
  (i ≠ .move → t.ibuf = s.ibuf ∧ t.len = s.len) ∧
  (i ∉ [Instr.bwte, .bwteS, .bwtd, .bwtdS, .mtfe, .mtfeC, .mtfd, .mtfdC] →
    t.obuf = s.obuf ∧ t.olen = s.olen) ∧
  (i ∉ [Instr.sort, .bwte, .bwteS, .bwtd, .bwtdS] → t.ord = s.ord) ∧
  (i ∉ [Instr.mtfe, .mtfeC, .mtfd, .mtfdC, .mtfi] → t.lst = s.lst) ∧
  (i ≠ .cmpr → t.result = s.result) ∧
  (i ∉ [Instr.bwte, .bwteS, .bwtdS] → t.origin = s.origin) ∧
  (i ∉ [Instr.bwtd, .bwtdS] → t.cnt = s.cnt)

theorem Commit.keepsColumns (h : Commit s i u) : s.keepsColumns i u := by
  cases h with
  | bwte hi =>
    rcases List.mem_pair.1 hi with rfl | rfl <;> simp [State.keepsColumns]
  | mtf hi =>
    simp only [List.mem_cons, List.not_mem_nil, or_false] at hi
    rcases hi with rfl | rfl | rfl | rfl <;> simp [State.keepsColumns]
  | nop | sort | cmpr | bwtd | bwtdS | mtfi | move => simp [State.keepsColumns]

theorem exec_keepsColumns (h : exec i s = .next t) : s.keepsColumns i t := by
  rcases exec_commit h with ⟨e, info, pos, rfl⟩ | ⟨u, hu, rfl⟩
  · simp [State.keepsColumns]
  · exact hu.keepsColumns

/-- Settles O37: `exec_keepsColumns` for the columns, `exec_completedFrom` for the fields that no
command writes. -/
theorem commandsWriteOnlyTheirColumns : Obligations.CommandsWriteOnlyTheirColumns := by
  intro i s t h
  obtain ⟨hibuf, hobuf, hord, hlst, hresult, horigin, hcnt⟩ := exec_keepsColumns h
  have hc := exec_completedFrom h
  exact ⟨hibuf, hobuf, hord, hlst, hresult, horigin, hcnt, hc.cmd, hc.ie, hc.arg0, hc.arg1, hc.cap,
    hc.alpha, hc.moves, hc.port, hc.busy, hc.done, hc.haz⟩

/-! ### The write ranges -/

/-- The elements of ORD past the order that is written. -/
theorem read_putOrder_of_le {order : List Nat} {a : Nat} (h : order.length ≤ a) :
    Memory.read (putOrder order s).ord a = Memory.read s.ord a :=
  Memory.read_writeMany_outside (.inr (by simpa using h))

/-- The elements of OBUF past OLEN, when the output fits the buffer of a part that meets the
invariant, so that OLEN holds its length. -/
theorem read_putOutput_of_le {ys : List Byte} {a : Nat} (hs : s.Inv) (hy : ys.length ≤ s.bufsz)
    (h : (putOutput ys u).olen.toNat ≤ a) :
    Memory.read (putOutput ys u).obuf a = Memory.read u.obuf a := by
  rw [putOutput_olen, hs.toNat_of_le_bufsz hy] at h
  exact Memory.read_writeMany_outside (.inr (by simpa using h))

theorem read_putInput_of_le {vs : List Byte} {a : Nat} (hv : vs.length = s.olen.toNat)
    (h : (putInput vs s).len.toNat ≤ a) :
    Memory.read (putInput vs s).ibuf a = Memory.read s.ibuf a := by
  rw [putInput_len, hv, BitVec.ofNat_toNat, BitVec.setWidth_eq] at h
  exact Memory.read_writeMany_outside (.inr (by omega))

theorem Commit.keepsRanges (hs : s.Inv) (h : Commit s i u) (a : Nat) :
    (u.len.toNat ≤ a → Memory.read u.ibuf a = Memory.read s.ibuf a) ∧
    (s.len.toNat ≤ a → Memory.read u.ord a = Memory.read s.ord a) ∧
    (i = .bwtdS → s.len.toNat - 4 ≤ a → Memory.read u.ord a = Memory.read s.ord a) ∧
    (u.olen.toNat ≤ a → Memory.read u.obuf a = Memory.read s.obuf a) := by
  cases h with
  | nop | cmpr | mtfi => exact ⟨fun _ => rfl, fun _ => rfl, fun _ _ => rfl, fun _ => rfl⟩
  | sort order ho =>
    exact ⟨fun _ => rfl, fun ha => read_putOrder_of_le (by omega), nofun, fun _ => rfl⟩
  | bwte hi order r ys ho hy =>
    exact ⟨fun _ => rfl, fun ha => read_putOrder_of_le (by omega),
      fun _ _ => read_putOrder_of_le (by simp_all), read_putOutput_of_le hs hy⟩
  | bwtd order cnt ys ho hy =>
    exact ⟨fun _ => rfl, fun ha => read_putOrder_of_le (by omega), nofun,
      read_putOutput_of_le hs hy⟩
  | bwtdS order cnt r ys ho hy =>
    exact ⟨fun _ => rfl, fun ha => read_putOrder_of_le (by omega),
      fun _ ha => read_putOrder_of_le (by omega), read_putOutput_of_le hs hy⟩
  | mtf hi l ys hy =>
    exact ⟨fun _ => rfl, fun _ => rfl, fun _ _ => rfl, read_putOutput_of_le hs hy⟩
  | move vs hv => exact ⟨read_putInput_of_le hv, fun _ => rfl, nofun, fun _ => rfl⟩

/-- Settles O38: an error writes no buffer, and a commit keeps its ranges. -/
theorem commandsWriteOnlyTheirRanges : Obligations.CommandsWriteOnlyTheirRanges := by
  intro i s t hs h a
  rcases exec_commit h with ⟨e, info, pos, rfl⟩ | ⟨u, hu, rfl⟩
  · exact ⟨fun _ => rfl, fun _ => rfl, fun _ _ => rfl, fun _ => rfl⟩
  · exact hu.keepsRanges hs a

end Sys2Proof.Machine
end

/-! ## What a command's outcome depends on (20_memory R68) -/

section

namespace Sys2Proof.Machine

variable {s s' : State} {α : Type}

/-! ### Reads of equal elements -/

theorem Memory.readMany_congr {m m' : List (Nat × α)} {a n : Nat}
    (h : ∀ b, a ≤ b → b < a + n → Memory.read m' b = Memory.read m b) :
    Memory.readMany m' a n = Memory.readMany m a n := by
  induction n generalizing a with
  | zero => rfl
  | succ n ih =>
    rw [Memory.readMany, Memory.readMany, h a (Nat.le_refl a) (by omega),
      ih fun b hb hn => h b (by omega) (by omega)]

theorem memRead_congr {space : Space} {m m' : List (Nat × α)} {a n : Nat}
    (h : ∀ b, a ≤ b → b < a + n → Memory.read m' b = Memory.read m b) :
    memRead space m' a n = memRead space m a n := by
  rw [memRead, Memory.readMany_congr h, memRead]

/-! ### Checks of the same input -/

/-- Two states of one part with the same input block: LEN and the IBUF elements below it. -/
structure State.sameInput (s s' : State) : Prop where
  cap : s'.cap = s.cap
  alpha : s'.alpha = s.alpha
  len : s'.len = s.len
  ibuf : ∀ a, a < s.len.toNat → Memory.read s'.ibuf a = Memory.read s.ibuf a

theorem State.sameInput.readInput_eq (h : s.sameInput s') {a n : Nat} (hn : a + n ≤ s.len.toNat) :
    readInput a n s' = readInput a n s :=
  memRead_congr fun b _ hb => h.ibuf b (by omega)

theorem State.sameInput.checkLen_eq (h : s.sameInput s') (capacity : Nat) :
    checkLen capacity s' = checkLen capacity s := by
  rw [checkLen, h.len, checkLen]

theorem State.sameInput.nmax_eq (h : s.sameInput s') : s'.nmax = s.nmax := by
  rw [State.nmax, h.cap, State.nmax]

theorem State.sameInput.readAll_eq (h : s.sameInput s') :
    readInput 0 s.len.toNat s' = readInput 0 s.len.toNat s :=
  h.readInput_eq (by omega)

theorem State.sameInput.readBlock_eq (h : s.sameInput s') : readBlock s' = readBlock s := by
  simp only [readBlock, h.nmax_eq, h.checkLen_eq, h.len, h.readAll_eq]

theorem State.sameInput.checkCmpr_eq (h : s.sameInput s') (h0 : s'.arg0 = s.arg0)
    (h1 : s'.arg1 = s.arg1) : checkCmpr s' = checkCmpr s := by
  simp only [checkCmpr, h.nmax_eq, h.checkLen_eq, h.len, h.readAll_eq, h0, h1]

theorem State.sameInput.checkBwtd_eq (h : s.sameInput s') (ho : s'.origin = s.origin) :
    checkBwtd s' = checkBwtd s := by
  simp only [checkBwtd, h.nmax_eq, h.checkLen_eq, h.len, h.readAll_eq, ho]

/-- The header is read only when LEN is at least 4, so it lies below LEN. -/
theorem State.sameInput.checkBwtdS_eq (h : s.sameInput s') : checkBwtdS s' = checkBwtdS s := by
  simp only [checkBwtdS, h.nmax_eq, h.checkLen_eq, h.len]
  by_cases h4 : s.len.toNat < 4
  · simp [h4]
  · rw [h.readInput_eq (by omega), h.readInput_eq (by omega)]

theorem State.sameInput.checkMtf_eq (h : s.sameInput s') (code : ErrCode) :
    checkMtf code s' = checkMtf code s := by
  simp only [checkMtf, readStream, State.bufsz, h.nmax_eq, h.checkLen_eq, h.len, h.readAll_eq,
    h.alpha]

/-! ### Commits of the same values -/

/-- What a command writes, when it completes without an error from `s` and from `s'`, has the same
value in `t` and `t'`: its write columns of R68, in their ranges. -/
def State.sameWrites (s : State) (i : Instr) (s' t t' : State) : Prop :=
  t.status = s.statusDone ∧ t.errinfo = s.errinfo ∧ t.errpos = s.errpos ∧
  t'.status = s'.statusDone ∧ t'.errinfo = s'.errinfo ∧ t'.errpos = s'.errpos ∧
  (i = .cmpr → t'.result = t.result) ∧
  (i ∈ [Instr.sort, .bwte, .bwteS, .bwtd] →
    ∀ a, a < s.len.toNat → Memory.read t'.ord a = Memory.read t.ord a) ∧
  (i = .bwtdS → ∀ a, a < s.len.toNat - 4 → Memory.read t'.ord a = Memory.read t.ord a) ∧
  (i ∈ [Instr.bwte, .bwteS, .bwtdS] → t'.origin = t.origin) ∧
  (i ∈ [Instr.bwte, .bwteS, .bwtd, .bwtdS, .mtfe, .mtfeC, .mtfd, .mtfdC] →
    t'.olen = t.olen ∧ ∀ a, a < t.olen.toNat → Memory.read t'.obuf a = Memory.read t.obuf a) ∧
  (i ∈ [Instr.mtfe, .mtfeC, .mtfd, .mtfdC, .mtfi] → t'.lst = t.lst) ∧
  (i = .move → t'.len = t.len ∧
    ∀ a, a < t.len.toNat → Memory.read t'.ibuf a = Memory.read t.ibuf a)

/-- The same values written to two storages read back the same. -/
theorem Memory.read_writeMany_congr (m m' : List (Nat × α)) {vs : List α} {n : Nat}
    (hn : n ≤ vs.length) :
    ∀ a, a < n →
      Memory.read (Memory.writeMany m' 0 vs) a = Memory.read (Memory.writeMany m 0 vs) a := by
  intro a ha
  have hlt : 0 ≤ a ∧ a < 0 + vs.length := by omega
  rw [Memory.read_writeMany, Memory.read_writeMany, if_pos hlt, if_pos hlt]

/-- The same order written to ORD of two states. -/
theorem putOrder_congr (u u' : State) {order : List Nat} {n : Nat} (hn : n ≤ order.length) :
    ∀ a, a < n → Memory.read (putOrder order u').ord a = Memory.read (putOrder order u).ord a :=
  Memory.read_writeMany_congr _ _ (by rwa [List.length_map])

/-- The same output written to OBUF of two states. -/
theorem putOutput_congr (u u' : State) (ys : List Byte) :
    (putOutput ys u').olen = (putOutput ys u).olen ∧
    ∀ a, a < (putOutput ys u).olen.toNat →
      Memory.read (putOutput ys u').obuf a = Memory.read (putOutput ys u).obuf a :=
  ⟨rfl, Memory.read_writeMany_congr _ _ (by simpa using Nat.mod_le _ _)⟩

/-- The same input written to IBUF of two states. -/
theorem putInput_congr (u u' : State) (vs : List Byte) :
    (putInput vs u').len = (putInput vs u).len ∧
    ∀ a, a < (putInput vs u).len.toNat →
      Memory.read (putInput vs u').ibuf a = Memory.read (putInput vs u).ibuf a :=
  ⟨rfl, Memory.read_writeMany_congr _ _ (by simpa using Nat.mod_le _ _)⟩

theorem State.sameWrites.of_sort {order : List Nat} (ho : order.length = s.len.toNat) :
    s.sameWrites .sort s' (complete (putOrder order s)) (complete (putOrder order s')) := by
  simpa [State.sameWrites, State.statusDone] using putOrder_congr s s' ho.ge

theorem State.sameWrites.of_bwte {i : Instr} {order : List Nat} {r : Word} {ys : List Byte}
    (hi : i ∈ [Instr.bwte, .bwteS]) (ho : order.length = s.len.toNat) :
    s.sameWrites i s' (complete (putOutput ys (putOrigin r (putOrder order s))))
      (complete (putOutput ys (putOrigin r (putOrder order s')))) := by
  have hord := putOrder_congr s s' ho.ge
  have hout := putOutput_congr s s' ys
  rcases List.mem_pair.1 hi with rfl | rfl <;>
    simpa [State.sameWrites, State.statusDone] using ⟨hord, hout.2⟩

theorem State.sameWrites.of_bwtd {order cnt cnt' : List Nat} {ys : List Byte}
    (ho : order.length = s.len.toNat) :
    s.sameWrites .bwtd s' (complete (putOutput ys (putOrder order (putCounters cnt s))))
      (complete (putOutput ys (putOrder order (putCounters cnt' s')))) := by
  have hord := putOrder_congr s s' ho.ge
  have hout := putOutput_congr s s' ys
  simpa [State.sameWrites, State.statusDone] using ⟨hord, hout.2⟩

theorem State.sameWrites.of_bwtdS {order cnt cnt' : List Nat} {r : Word} {ys : List Byte}
    (ho : order.length = s.len.toNat - 4) :
    s.sameWrites .bwtdS s'
      (complete (putOrigin r (putOutput ys (putOrder order (putCounters cnt s)))))
      (complete (putOrigin r (putOutput ys (putOrder order (putCounters cnt' s'))))) := by
  have hord := putOrder_congr s s' ho.ge
  have hout := putOutput_congr s s' ys
  simpa [State.sameWrites, State.statusDone] using ⟨hord, hout.2⟩

theorem State.sameWrites.of_mtf {i : Instr} (hi : i ∈ [Instr.mtfe, .mtfeC, .mtfd, .mtfdC])
    (p : List Byte × List Byte) :
    s.sameWrites i s' (complete (commitMtf p s)) (complete (commitMtf p s')) := by
  have hout := putOutput_congr s s' p.1
  simp only [List.mem_cons, List.not_mem_nil, or_false] at hi
  rcases hi with rfl | rfl | rfl | rfl <;>
    simpa [State.sameWrites, State.statusDone, commitMtf] using hout.2

theorem State.sameWrites.of_move (vs : List Byte) :
    s.sameWrites .move s' (complete (putInput vs s)) (complete (putInput vs s')) := by
  simpa [State.sameWrites, State.statusDone] using (putInput_congr s s' vs).2

/-- The outcomes `r` from `s` and `r'` from `s'` are alike: the same fault, the same error, or two
successes with `P` of their next states. -/
def sameOutcome (P : State → State → Prop) (s s' : State) (r r' : Result) : Prop :=
  (∀ f, r = .fault f → r' = .fault f) ∧
  ∀ t, r = .next t → ∃ t', r' = .next t' ∧
    ((∃ code info pos, code ≠ 0#4 ∧ s.errorOutcome code info pos = .next t ∧
        s'.errorOutcome code info pos = .next t') ∨ P t t')

/-- Commands with one check phase have like outcomes when their commits are alike. -/
theorem runCommand_congr {P : State → State → Prop} {c c' : Check α} {k k' : α → State → State}
    (hc : c' = c) (hk : ∀ a, c = .ok a → P (complete (k a s)) (complete (k' a s'))) :
    sameOutcome P s s' (runCommand c k s) (runCommand c' k' s') := by
  subst hc
  cases c' with
  | ok a =>
    refine ⟨nofun, fun t ht => ⟨_, rfl, .inr ?_⟩⟩
    cases ht
    exact hk a rfl
  | raise e info pos =>
    exact ⟨nofun, fun t ht => ⟨_, rfl, .inl ⟨e.number, info, pos, e.number_ne_zero, ht, rfl⟩⟩⟩
  | fault f => exact ⟨fun _ h => h, nofun⟩

/-- Settles O39: the check phases agree, and the commits write the same values. -/
theorem onlyTheOperandsMatter : Obligations.OnlyTheOperandsMatter := by
  intro i s s' hcap halpha hin hargs horigin hlst hout
  have hsame (hi : i ∉ [Instr.nop, .mtfi, .move]) : s.sameInput s' :=
    ⟨hcap, halpha, (hin hi).1, (hin hi).2⟩
  show sameOutcome (s.sameWrites i s') s s' (exec i s) (exec i s')
  cases i <;> rw [exec, exec]
  case nop => exact runCommand_congr rfl fun _ _ => by simp [State.sameWrites, State.statusDone]
  case sort =>
    exact runCommand_congr (hsame (by decide)).readBlock_eq fun b hb =>
      .of_sort ((sortOrder_length b).trans ((readBlock_eq_ok_iff s b).1 hb).2.1)
  case cmpr =>
    obtain ⟨h0, h1⟩ := hargs rfl
    refine runCommand_congr ((hsame (by decide)).checkCmpr_eq h0 h1) fun b _ => ?_
    simp [State.sameWrites, State.statusDone, h0, h1]
  case bwte | bwteS =>
    exact runCommand_congr (hsame (by decide)).readBlock_eq fun b hb =>
      .of_bwte (by decide) ((sortOrder_length b).trans ((readBlock_eq_ok_iff s b).1 hb).2.1)
  case bwtd =>
    have ho := horigin rfl
    refine runCommand_congr ((hsame (by decide)).checkBwtd_eq ho) fun v hv => ?_
    rw [ho, commitBwtd_eq, commitBwtd_eq]
    exact .of_bwtd ((successors_length v).trans (checkBwtd_eq_ok hv).2.1)
  case bwtdS =>
    refine runCommand_congr (hsame (by decide)).checkBwtdS_eq fun p hp => ?_
    rw [commitBwtd_eq, commitBwtd_eq]
    exact .of_bwtdS ((successors_length p.2).trans (checkBwtdS_eq_ok hp).2)
  case mtfe | mtfd =>
    refine runCommand_congr ((hsame (by decide)).checkMtf_eq _) fun x _ => ?_
    rw [halpha]
    exact .of_mtf (by decide) _
  case mtfeC | mtfdC =>
    refine runCommand_congr ((hsame (by decide)).checkMtf_eq _) fun x _ => ?_
    rw [hlst (by decide)]
    exact .of_mtf (by decide) _
  case mtfi =>
    exact runCommand_congr rfl fun _ _ => by simp [State.sameWrites, State.statusDone, halpha]
  case move =>
    obtain ⟨holen, hobuf⟩ := hout rfl
    refine runCommand_congr ?_ fun vs _ => .of_move vs
    rw [holen, memRead_congr fun b _ hb => hobuf b (by omega)]

end Sys2Proof.Machine
end

/-! ## The address map and the host's reads and writes (20_memory R61 to R71) -/

section

namespace Sys2Proof.Machine

variable {s t u : State} {space : BitVec 3} {index data : Word} {rest : List Move} {sp : Space}

/-! ### Transactions off the map -/

theorem reach_eq_none_iff (space : BitVec 3) (index : Word) (s : State) :
    reach space index s = none ↔
      ∀ sp, Space.ofNumber space = some sp → sp.size s ≤ index.toNat := by
  simp only [Option.eq_none_iff_forall_ne_some, ne_eq, reach_eq_some_iff, not_and, not_lt]

/-- The transactions that reach no element, over the address map (20_memory R61, R65). -/
theorem reach_eq_none_iff_offMap (space : BitVec 3) (index : Word) (s : State) :
    reach space index s = none ↔
      (5 ≤ space.toNat ∨ (space = 0#3 ∧ 14 ≤ index.toNat) ∨
        (space = 1#3 ∧ s.bufsz ≤ index.toNat) ∨ (space = 2#3 ∧ s.bufsz ≤ index.toNat) ∨
        (space = 3#3 ∧ s.nmax ≤ index.toNat) ∨ (space = 4#3 ∧ s.alpha.toNat ≤ index.toNat)) := by
  have hspace : ∀ n : BitVec 3, n ∈ [0#3, 1#3, 2#3, 3#3, 4#3, 5#3, 6#3, 7#3] := by decide
  have := hspace space
  simp only [List.mem_cons, List.not_mem_nil, or_false] at this
  rw [reach_eq_none_iff]
  rcases this with rfl | rfl | rfl | rfl | rfl | rfl | rfl | rfl <;>
    simp [Space.ofNumber, Space.size]

/-- A read in range is never refused: the register of an index below 14 exists. -/
theorem hostReadAt_ne_decerr (hi : index.toNat < sp.size s) :
    hostReadAt sp index.toNat s ≠ .fault (.decerr space index) := by
  have answer_ne {n : Nat} (v : Option (BitVec n)) :
      answerElement sp index.toNat v s ≠ .fault (.decerr space index) := by
    cases v <;> simp [answerElement]
  cases sp with
  | csr =>
    have hr : Csr.ofIndex index.toNat ≠ none :=
      fun hn => absurd ((Csr.ofIndex_eq_none_iff _).1 hn) (Nat.not_le.2 hi)
    rw [hostReadAt, readCsr]
    split
    · split <;> simp
    · contradiction
  | ibuf | obuf | ord | lst =>
    rw [hostReadAt]
    split
    · simp
    · exact answer_ne _

/-- A transaction is refused exactly when it reaches no element. -/
theorem transact_eq_decerr_iff {x : Transaction}
    (hx : x = .read space index ∨ ∃ data, x = .write space index data) :
    transact x s = .fault (.decerr space index) ↔ reach space index s = none := by
  rcases hx with rfl | ⟨data, rfl⟩ <;> rw [transact] <;> cases hr : reach space index s with
  | none => simp
  | some sp => simp [hostReadAt_ne_decerr ((reach_eq_some_iff _ _ _).1 hr).2]

/-- Settles O47: a transaction is refused when it reaches no element, which the map says. -/
theorem refusedTransactionsAreThoseOffTheMap :
    Obligations.RefusedTransactionsAreThoseOffTheMap := by
  intro s x space index rest hx hm
  rw [step_of_host hm, transact_eq_decerr_iff hx]
  exact reach_eq_none_iff_offMap space index { s with moves := rest }

/-! ### Reads -/

/-- Settles O49: a read that answers changes the port alone. -/
theorem readsHaveNoSideEffect : Obligations.ReadsHaveNoSideEffect := by
  intro s t space index rest hm h
  rw [step_of_host hm] at h
  exact transact_read_eq_next h

theorem step_of_read (hs : Space.ofNumber space = some sp) (hi : index.toNat < sp.size s)
    (hm : s.moves = .host (.read space index) :: rest) :
    step s = hostReadAt sp index.toNat { s with moves := rest } := by
  have hreach : reach space index { s with moves := rest } = some sp :=
    (reach_eq_some_iff _ _ _).2 ⟨hs, by cases sp <;> exact hi⟩
  rw [step_of_host hm, transact, hreach]

/-- An idle engine answers the read of any register. -/
theorem step_of_idle_csrRead {r : Csr} (hb : s.status.busy = false)
    (hm : s.moves = .host (.read 0#3 index) :: rest) (hr : Csr.ofIndex index.toNat = some r) :
    step s = .next { s with moves := rest, port := .data (csrRead s r) } := by
  rw [step_of_read (sp := .csr) rfl (Csr.lt_of_ofIndex hr) hm, hostReadAt, readCsr, hr]
  simp [hb, csrRead_moves]

/-- A read of an element that may be unwritten: the fault Unwritten, or its value. -/
theorem step_of_elementRead {n : Nat} {x : Option (BitVec n)}
    (hm : s.moves = .host (.read space index) :: rest) (hs : Space.ofNumber space = some sp)
    (hi : index.toNat < sp.size s)
    (h : hostReadAt sp index.toNat { s with moves := rest } =
      answerElement sp index.toNat x { s with moves := rest }) :
    (x = none → step s = .fault (.unwritten sp index.toNat)) ∧
    ∀ v, x = some v → step s = .next { s with moves := rest, port := .data (v.setWidth 32) } := by
  rw [step_of_read hs hi hm, h]
  exact ⟨fun hx => by rw [hx, answerElement], fun v hv => by rw [hv, answerElement]⟩

/-- Settles O46: an idle engine answers the register, or the element if it is written. -/
theorem idleReadsAnswerTheState : Obligations.IdleReadsAnswerTheState := by
  refine fun s space index rest hb hm =>
    ⟨?_, fun m sp hmem hi => ?_, ?_, fun hs hi v hv => ?_⟩
  · rintro rfl v hv
    simp only [List.mem_cons, Prod.mk.injEq, List.not_mem_nil, or_false] at hv
    rcases hv with ⟨rfl, rfl⟩ | ⟨rfl, rfl⟩ | ⟨rfl, rfl⟩ | ⟨rfl, rfl⟩ | ⟨rfl, rfl⟩ | ⟨rfl, rfl⟩ |
      ⟨rfl, rfl⟩ | ⟨rfl, rfl⟩ | ⟨rfl, rfl⟩ | ⟨rfl, rfl⟩ | ⟨rfl, rfl⟩ <;>
      exact step_of_idle_csrRead hb hm rfl
  · simp only [List.mem_cons, Prod.mk.injEq, List.not_mem_nil, or_false] at hmem
    rcases hmem with ⟨rfl, rfl, rfl⟩ | ⟨rfl, rfl, rfl⟩ <;>
      exact step_of_elementRead hm rfl hi (by simp [hostReadAt, hb])
  · rintro rfl hi
    have h := step_of_elementRead (sp := .ord) (x := Memory.read s.ord index.toNat) hm rfl hi
      (by simp [hostReadAt, hb])
    simpa using h
  · subst hs
    exact (step_of_elementRead (sp := .lst) (x := s.lst[index.toNat]?) hm rfl hi
      (by simp [hostReadAt, hb])).2 v hv

/-! ### Writes of read-only places -/

theorem hostWriteAt_readOnlyCsr {i : Nat} (h7 : 7 ≤ i) (h13 : i ≤ 13) (data : Word) (s : State) :
    hostWriteAt .csr i data s = s := by
  interval_cases i <;> rfl

/-- Settles O48: the write reaches its place, which takes nothing. -/
theorem readOnlyWritesAreIgnored : Obligations.ReadOnlyWritesAreIgnored := by
  rintro s space index data rest hm (⟨rfl, h7, h13⟩ | ⟨rfl, hi⟩ | ⟨rfl, hi⟩ | ⟨rfl, hi⟩)
  · rw [step_of_write (sp := .csr) rfl (Nat.lt_succ_of_le h13) hm, hostWriteAt_readOnlyCsr h7 h13]
  · exact step_of_write (sp := .obuf) rfl hi hm
  · exact step_of_write (sp := .ord) rfl hi hm
  · exact step_of_write (sp := .lst) rfl hi hm

/-! ### The host and a command in flight -/

/-- What the host can change while a command is in flight: STATUS but for BUSY, IE, and the answer
it got (70_reset R194). -/
def State.frozenFrom (s u : State) (rest : List Move) : Prop :=
  u.status.busy = true ∧
  u = { s with status := u.status, ie := u.ie, moves := rest, port := u.port }

theorem State.frozenFrom.trans {rest' : List Move} (h : s.frozenFrom t rest)
    (h' : t.frozenFrom u rest') : s.frozenFrom u rest' := by
  obtain ⟨-, ht⟩ := h
  obtain ⟨hb, hu⟩ := h'
  refine ⟨hb, ?_⟩
  rw [ht] at hu
  exact hu

theorem HostWrite.frozenFrom (hw : HostWrite space index data s u) (hb : s.status.busy = true) :
    s.frozenFrom u s.moves := by
  cases hw with
  | issue _ hi | operand _ _ _ _ _ hi | input _ _ hi => exact absurd (hb.symm.trans hi) (by decide)
  | status => exact ⟨by rw [Status.writeOneToClear_eq]; exact hb, rfl⟩
  | config | dropped | ignored => exact ⟨hb, rfl⟩

/-- A host transaction while a command is in flight. -/
theorem step_frozenFrom {x : Transaction} (hb : s.status.busy = true)
    (hm : s.moves = .host x :: rest) (h : step s = .next t) : s.frozenFrom t rest := by
  cases x with
  | read space index =>
    rw [step_of_host hm] at h
    obtain ⟨v, rfl⟩ := transact_read_eq_next h
    exact ⟨hb, rfl⟩
  | write space index data =>
    obtain ⟨u, hw, rfl⟩ := step_write_eq_next h hm
    rw [State.inTurn_of_cons hm] at hw
    obtain ⟨hub, hu⟩ := hw.frozenFrom hb
    exact ⟨hub, congrArg (fun v : State => { v with port := .okay }) hu⟩

/-- A run of `k + 1` steps that answers is a step and a run of `k` steps. -/
theorem run_succ_eq_next {M : Host.Core} {k : Nat} {s u : M.State}
    (h : M.run (k + 1) s = .next u) : ∃ t, M.step s = .next t ∧ M.run k t = .next u := by
  rw [Host.Core.run] at h
  split at h
  · exact ⟨_, ‹_›, h⟩
  · cases h
  · cases h

/-- Settles O52: each transaction leaves the operands, by induction on their list. -/
theorem operandsStayAsIssued : Obligations.OperandsStayAsIssued := by
  intro s u ts rest hb hm hrun
  induction ts generalizing s with
  | nil =>
    cases hrun
    cases u
    cases hm
    exact ⟨hb, rfl⟩
  | cons x ts ih =>
    obtain ⟨t, ht, hrun⟩ := run_succ_eq_next hrun
    have hst := step_frozenFrom hb hm ht
    exact hst.trans (ih (s := t) hst.1 (congrArg State.moves hst.2) hrun)

end Sys2Proof.Machine
end

/-! ## The decoder and the words it refuses (30_encoding R81 to R87) -/

section

namespace Sys2Proof

variable {f : Cmd32} {w : Word} {i : Instr}

/-! ### The fields of a word (30_encoding R81) -/

/-- A word is made of its fields. -/
theorem toWord_ofWord (w : Word) : (Cmd32.ofWord w).toWord = w := by
  refine BitVec.eq_of_getLsbD_eq fun k hk => ?_
  simp only [Cmd32.toWord, Cmd32.ofWord, BitVec.getLsbD_append, BitVec.getLsbD_extractLsb',
    BitVec.getLsbD_ofBool]
  obtain h | rfl | rfl | h : k < 4 ∨ k = 4 ∨ k = 5 ∨ 6 ≤ k := by omega
  · simp [h]
  · simp
  · simp
  · obtain ⟨j, rfl⟩ := Nat.exists_eq_add_of_le' h
    simp [Nat.add_comm 6, show j < 26 by omega]

theorem toNat_op_ofWord (w : Word) : (Cmd32.ofWord w).op.toNat = w.toNat % 16 := by
  simp [Cmd32.ofWord]

/-- OP of a word, as a value of 4 bits and as a number. -/
theorem op_ofWord_eq_iff (w : Word) (n : BitVec 4) :
    (Cmd32.ofWord w).op = n ↔ w.toNat % 16 = n.toNat := by
  rw [← BitVec.toNat_inj, toNat_op_ofWord]

theorem reservedOk_ofWord_iff (w : Word) :
    (Cmd32.ofWord w).reservedOk = true ↔ w.toNat < 64 := by
  have hw := w.isLt
  simp only [Cmd32.reservedOk, Cmd32.ofWord, beq_iff_eq, ← BitVec.toNat_inj,
    BitVec.extractLsb'_toNat, Nat.shiftRight_eq_div_pow, BitVec.toNat_ofNat]
  omega

theorem opOk_ofWord_iff (w : Word) : (Cmd32.ofWord w).opOk = true ↔ w.toNat % 16 < 9 := by
  rw [Cmd32.opOk, decide_eq_true_iff, toNat_op_ofWord]

theorem contOk_ofWord_iff (w : Word) : (Cmd32.ofWord w).contOk = true ↔
    (w.getLsbD 4 = true → w.toNat % 16 = 5 ∨ w.toNat % 16 = 6) := by
  rw [Cmd32.contOk, show (Cmd32.ofWord w).c = w.getLsbD 4 from rfl]
  cases w.getLsbD 4 <;> simp [op_ofWord_eq_iff]

theorem serOk_ofWord_iff (w : Word) : (Cmd32.ofWord w).serOk = true ↔
    (w.getLsbD 5 = true → w.toNat % 16 = 3 ∨ w.toNat % 16 = 4) := by
  rw [Cmd32.serOk, show (Cmd32.ofWord w).s = w.getLsbD 5 from rfl]
  cases w.getLsbD 5 <;> simp [op_ofWord_eq_iff]

/-- The words that pass the four tests, in the terms of R87. -/
theorem wf_ofWord_iff (w : Word) : (Cmd32.ofWord w).wf = true ↔
    w.toNat < 64 ∧ w.toNat % 16 < 9 ∧
    (w.getLsbD 4 = true → w.toNat % 16 = 5 ∨ w.toNat % 16 = 6) ∧
    (w.getLsbD 5 = true → w.toNat % 16 = 3 ∨ w.toNat % 16 = 4) := by
  simp only [Cmd32.wf, Bool.and_eq_true, reservedOk_ofWord_iff, opOk_ofWord_iff, contOk_ofWord_iff,
    serOk_ofWord_iff, and_assoc]

/-! ### The legal words (30_encoding R83, R84) -/

/-- The commands, in the order of the table of legal words. -/
def allInstrs : List Instr :=
  [.nop, .sort, .cmpr, .bwte, .bwteS, .bwtd, .bwtdS, .mtfe, .mtfeC, .mtfd, .mtfdC, .mtfi, .move]

theorem mem_allInstrs (i : Instr) : i ∈ allInstrs := by
  cases i <;> decide

/-- Well-formed fields are those of a command: the reserved bits are 0, and of the 64 values of OP
and the flags 13 pass the checks. -/
theorem Cmd32.exists_eq_fields_of_wf (h : f.wf = true) : ∃ i : Instr, f = i.fields := by
  have h64 : ∀ (op : BitVec 4) (c s : Bool), (Cmd32.mk op c s 0#26).wf = true →
      ∃ i ∈ allInstrs, Cmd32.mk op c s 0#26 = i.fields := by decide
  obtain ⟨op, c, s, reserved⟩ := f
  obtain rfl : reserved = 0#26 := by
    simp only [Cmd32.wf, Cmd32.reservedOk, Bool.and_eq_true, beq_iff_eq] at h
    obtain ⟨⟨⟨hr, -⟩, -⟩, -⟩ := h
    exact hr
  obtain ⟨i, -, hi⟩ := h64 op c s h
  exact ⟨i, hi⟩

theorem exists_eq_encode_of_wf (h : (Cmd32.ofWord w).wf = true) : ∃ i, w = encode i := by
  obtain ⟨i, hi⟩ := Cmd32.exists_eq_fields_of_wf h
  exact ⟨i, by rw [encode, ← hi, toWord_ofWord]⟩

/-- Settles O2: the round trip of each command's word. -/
theorem decodeOfEncodeIsTheCommand : Obligations.DecodeOfEncodeIsTheCommand
  | .nop => Laws.RoundTrip.nop
  | .sort => Laws.RoundTrip.sort
  | .cmpr => Laws.RoundTrip.cmpr
  | .bwte => Laws.RoundTrip.bwte
  | .bwteS => Laws.RoundTrip.bwteS
  | .bwtd => Laws.RoundTrip.bwtd
  | .bwtdS => Laws.RoundTrip.bwtdS
  | .mtfe => Laws.RoundTrip.mtfe
  | .mtfeC => Laws.RoundTrip.mtfeC
  | .mtfd => Laws.RoundTrip.mtfd
  | .mtfdC => Laws.RoundTrip.mtfdC
  | .mtfi => Laws.RoundTrip.mtfi
  | .move => Laws.RoundTrip.move

/-! ### The two answers of the decoder (30_encoding R85) -/

theorem Cmd32.exists_decode_eq_illegal (h : f.wf = false) : ∃ why, f.decode = .illegal why := by
  unfold Cmd32.decode
  split_ifs
  case neg => simp_all [Cmd32.wf]
  all_goals exact ⟨_, rfl⟩

theorem decode_eq_legal_iff : decode w = .legal i ↔ w = encode i := by
  refine ⟨fun h => ?_, fun h => h ▸ decodeOfEncodeIsTheCommand i⟩
  cases hwf : (Cmd32.ofWord w).wf with
  | true =>
    obtain ⟨j, rfl⟩ := exists_eq_encode_of_wf hwf
    cases (decodeOfEncodeIsTheCommand j).symm.trans h
    rfl
  | false =>
    obtain ⟨why, hwhy⟩ := Cmd32.exists_decode_eq_illegal hwf
    cases h.symm.trans hwhy

theorem exists_decode_eq_illegal_iff :
    (∃ why, decode w = .illegal why) ↔ ¬ (Cmd32.ofWord w).wf = true := by
  refine ⟨fun ⟨why, hwhy⟩ hwf => ?_, fun h =>
    Cmd32.exists_decode_eq_illegal (Bool.eq_false_iff.2 h)⟩
  obtain ⟨i, rfl⟩ := exists_eq_encode_of_wf hwf
  cases (decodeOfEncodeIsTheCommand i).symm.trans hwhy

/-! ### The table and the reserved space (30_encoding R84, R87) -/

/-- Settles O1: each word of the table is the encoding of its command. -/
theorem specWordsDecodeToTheirCommands : Obligations.SpecWordsDecodeToTheirCommands := by
  simp only [Obligations.SpecWordsDecodeToTheirCommands, decode_eq_legal_iff]
  decide

/-- Settles O3: the table pairs each command with its encoding. -/
theorem legalWordsAreExactlyTheThirteen : Obligations.LegalWordsAreExactlyTheThirteen := by
  intro w i
  change _ ↔ (w, i) ∈ allInstrs.map fun i => (encode i, i)
  simp [decode_eq_legal_iff, mem_allInstrs, eq_comm]

/-- Settles O4: an illegal word fails one of the decoder's four tests. -/
theorem illegalWordsAreThoseOfTheReservedSpace :
    Obligations.IllegalWordsAreThoseOfTheReservedSpace := by
  intro w
  rw [exists_decode_eq_illegal_iff, wf_ofWord_iff]
  simp only [not_and_or, Classical.not_imp, not_lt, not_or, ne_eq]

end Sys2Proof
end

/-! ## An illegal word at its completion (30_encoding R86) -/

section

namespace Sys2Proof.Machine

variable {s : State}

theorem engineStep_eq_errorOutcome_of_illegal {why : Illegal} (hb : s.status.busy = true)
    (hd : decode s.cmd = .illegal why) : engineStep s = s.errorOutcome 1#4 s.cmd 0#32 := by
  rw [engineStep_of_illegal hb hd, completeIllegal, next_raiseError, ErrCode.number]

/-- Settles O7: the write issues the word, and on the engine's turn it completes as illegal. -/
theorem illegalWordIsIssuedAndReported : Obligations.IllegalWordIsIssuedAndReported := by
  refine ⟨fun s w why rest hb hd hm => ⟨_, step_of_issue hb hm, rfl, ?_⟩,
    fun s why rest hb hd => ⟨fun hm => ?_, fun hm => ?_⟩⟩
  · rw [step_of_engine rfl]
    exact engineStep_eq_errorOutcome_of_illegal rfl hd
  · rw [step_of_nil hm]
    exact engineStep_eq_errorOutcome_of_illegal hb hd
  · rw [step_of_engine hm]
    exact engineStep_eq_errorOutcome_of_illegal (s := { s with moves := rest }) hb hd

end Sys2Proof.Machine
end

/-! ## The suffix sorter (40_suffix_sort R100 to R106) -/

section

namespace Sys2Proof.Machine

variable {s t : State} {b : List Byte} {i j : Nat}

/-! ### Rotations (40_suffix_sort R100) -/

theorem rotationOf_eq_rotate (b : List Byte) (i : Nat) : rotationOf b i = b.rotate i := by
  refine List.ext_getElem (by simp) fun k hk _ => ?_
  have hpos : 0 < b.length := by
    rw [rotationOf_length] at hk
    omega
  have hmod := Nat.mod_lt (i + k) hpos
  simp [rotationOf, cyclicAt, List.getElem_rotate, Nat.add_comm k, hmod]

/-- Settles O11: Mathlib's rotation by `i` has the same elements. -/
theorem rotationIsTheCyclicString : Obligations.RotationIsTheCyclicString := by
  intro b i hi
  rw [rotationOf_eq_rotate]
  refine ⟨List.length_rotate .., fun k hk => ?_, List.rotate_eq_drop_append_take hi.le⟩
  rw [List.getElem?_rotate hk, Nat.add_comm]

/-! ### The comparator (40_suffix_sort R101) -/

/-- The `n` bytes of Rotation(i) from character `k` on. -/
def rotationFrom (b : List Byte) (i k n : Nat) : List Byte :=
  (List.range' k n).map fun m => cyclicAt b (i + m)

theorem rotationFrom_succ (b : List Byte) (i k n : Nat) :
    rotationFrom b i k (n + 1) = cyclicAt b (i + k) :: rotationFrom b i (k + 1) n := rfl

theorem rotationOf_eq_rotationFrom (b : List Byte) (i : Nat) :
    rotationOf b i = rotationFrom b i 0 b.length := by
  rw [rotationOf, List.range_eq_range', rotationFrom]

theorem compares_cons {o : Ordering} {l l' : List Byte} (h : o.Compares l l') (x : Byte) :
    o.Compares (x :: l) (x :: l') := by
  cases o with
  | lt => exact .cons h
  | eq => exact congrArg (x :: ·) h
  | gt => exact .cons h

/-- The comparator's loop from character `k` on compares the rotations from there. -/
theorem cmpFrom_compares (b : List Byte) (i j n k : Nat) :
    (cmpFrom b i j n k).Compares (rotationFrom b i k n) (rotationFrom b j k n) := by
  induction n generalizing k with
  | zero => exact rfl
  | succ n ih =>
    rw [cmpFrom, rotationFrom_succ, rotationFrom_succ]
    split
    · exact .rel ‹_›
    · split
      · exact .rel ‹_›
      · have heq : cyclicAt b (i + k) = cyclicAt b (j + k) :=
          BitVec.le_antisymm (BitVec.not_lt.1 ‹_›) (BitVec.not_lt.1 ‹_›)
        rw [heq]
        exact compares_cons (ih (k + 1)) _

theorem cmpRot_compares (b : List Byte) (i j : Nat) :
    (cmpRot b i j).Compares (rotationOf b i) (rotationOf b j) := by
  rw [rotationOf_eq_rotationFrom, rotationOf_eq_rotationFrom]
  exact cmpFrom_compares b i j b.length 0

/-- Settles O10: the comparator names the relation that holds, and only one of the three can. -/
theorem comparatorIsRotationOrder : Obligations.ComparatorIsRotationOrder := by
  intro b i j
  have h := cmpRot_compares b i j
  cases ho : cmpRot b i j <;> rw [ho] at h
  case lt => simpa [Std.ne_of_lt h, List.lt_asymm h] using h
  case eq => simp [show rotationOf b i = rotationOf b j from h, List.lt_irrefl]
  case gt => simpa [(Std.ne_of_lt h).symm, List.lt_asymm h] using h

/-! ### The sorted order (40_suffix_sort R102) -/

/-- `i ≺ j` on the rotations as byte strings (40_suffix_sort R102). -/
def rotationPrecedes (b : List Byte) (i j : Nat) : Prop :=
  rotationOf b i < rotationOf b j ∨ (rotationOf b i = rotationOf b j ∧ i < j)

theorem precedes_iff : precedes b i j = true ↔ rotationPrecedes b i j := by
  obtain ⟨hlt, heq, -⟩ := comparatorIsRotationOrder b i j
  simp [precedes, rotationPrecedes, hlt, heq]

theorem rotationPrecedes_asymm (hij : rotationPrecedes b i j) : ¬ rotationPrecedes b j i := by
  rintro (hgt | ⟨heq, hji⟩) <;> rcases hij with hlt | ⟨heq', hij⟩
  · exact List.lt_asymm hlt hgt
  · exact Std.ne_of_lt hgt heq'.symm
  · exact Std.ne_of_lt hlt heq.symm
  · exact Nat.lt_asymm hij hji

theorem rotationPrecedes_trans {k : Nat} (hij : rotationPrecedes b i j)
    (hjk : rotationPrecedes b j k) : rotationPrecedes b i k := by
  rcases hij with hij | ⟨heq, hij⟩
  · rcases hjk with hjk | ⟨heq, -⟩
    · exact .inl (List.lt_trans hij hjk)
    · exact .inl (heq ▸ hij)
  · rw [rotationPrecedes, heq]
    exact hjk.imp_right fun ⟨h, hjk⟩ => ⟨h, hij.trans hjk⟩

theorem rotationPrecedes_trichotomy (b : List Byte) (i j : Nat) :
    rotationPrecedes b i j ∨ i = j ∨ rotationPrecedes b j i := by
  rcases Std.lt_trichotomy (rotationOf b i) (rotationOf b j) with hlt | heq | hgt
  · exact .inl (.inl hlt)
  · exact (Nat.lt_trichotomy i j).imp (fun hij => .inr ⟨heq, hij⟩)
      (Or.imp_right fun hji => .inr ⟨heq.symm, hji⟩)
  · exact .inr (.inr (.inl hgt))

/-- The relation that SortOrder inserts by: `≺` or the same start index. -/
theorem precedes_eq_false_iff : precedes b j i = false ↔ rotationPrecedes b i j ∨ i = j := by
  rw [← Bool.not_eq_true, precedes_iff]
  constructor
  · intro h
    rcases rotationPrecedes_trichotomy b i j with hij | heq | hji
    · exact .inl hij
    · exact .inr heq
    · exact absurd hji h
  · rintro (hij | rfl) hji
    · exact rotationPrecedes_asymm hij hji
    · exact rotationPrecedes_asymm hji hji

theorem sortOrder_pairwise (b : List Byte) : (sortOrder b).Pairwise (rotationPrecedes b) := by
  have htotal : Std.Total fun i j => precedes b j i = false := ⟨fun i j => by
    simp only [precedes_eq_false_iff]
    rcases rotationPrecedes_trichotomy b i j with hij | heq | hji
    · exact .inl (.inl hij)
    · exact .inl (.inr heq)
    · exact .inr (.inl hji)⟩
  have htrans : IsTrans Nat fun i j => precedes b j i = false := ⟨fun i j k => by
    simp only [precedes_eq_false_iff]
    rintro (hij | rfl) (hjk | rfl)
    · exact .inl (rotationPrecedes_trans hij hjk)
    · exact .inl hij
    · exact .inl hjk
    · exact .inr rfl⟩
  have hsorted : (sortOrder b).Pairwise fun i j => precedes b j i = false :=
    List.pairwise_insertionSort _ _
  exact (hsorted.and (sortOrder_nodup b)).imp fun ⟨h, hne⟩ =>
    (precedes_eq_false_iff.1 h).resolve_right hne

/-- Settles O12: two sorted lists of the same indices under an asymmetric order are the same. -/
theorem sortOrderIsTheUniqueSortedPermutation :
    Obligations.SortOrderIsTheUniqueSortedPermutation := by
  refine fun b l => ⟨?_, fun ⟨hperm, hsorted⟩ => ?_⟩
  · rintro rfl
    exact ⟨sortOrder_perm b, sortOrder_pairwise b⟩
  · exact List.Perm.eq_of_pairwise (fun i j _ _ hij hji => absurd hji (rotationPrecedes_asymm hij))
      hsorted (sortOrder_pairwise b) (hperm.trans (sortOrder_perm b).symm)

/-! ### The last column (40_suffix_sort R106) -/

/-- The last character of a rotation, read off the rotation itself. -/
theorem lastChar_eq_getLastD (b : List Byte) (i : Nat) :
    lastChar b i = (rotationOf b i).getLastD 0#8 := by
  cases b with
  | nil => rfl
  | cons x b => simp [lastChar, rotationOf, List.range_succ]

theorem sortOrder_pairwise_not_lt (b : List Byte) :
    (sortOrder b).Pairwise fun i j => ¬ rotationOf b j < rotationOf b i :=
  (sortOrder_pairwise b).imp fun hij hji => rotationPrecedes_asymm hij (.inl hji)

/-- Every order of the indices that ascends by rotation lists the same rotations. -/
theorem map_rotationOf_eq_of_pairwise {l : List Nat} (hperm : l.Perm (List.range b.length))
    (hsorted : l.Pairwise fun i j => ¬ rotationOf b j < rotationOf b i) :
    l.map (rotationOf b) = (sortOrder b).map (rotationOf b) :=
  List.Perm.eq_of_pairwise (le := fun x y => ¬ y < x)
    (fun _ _ _ _ hxy hyx => List.le_antisymm (List.not_lt.1 hxy) (List.not_lt.1 hyx))
    (List.pairwise_map.2 hsorted) (List.pairwise_map.2 (sortOrder_pairwise_not_lt b))
    ((hperm.trans (sortOrder_perm b).symm).map _)

theorem map_lastChar_eq (b : List Byte) (l : List Nat) :
    l.map (lastChar b) = (l.map (rotationOf b)).map (·.getLastD 0#8) := by
  simp only [List.map_map, List.map_inj_left]
  exact fun i _ => lastChar_eq_getLastD b i

theorem sortOrder_getElem?_originRank (h : b ≠ []) : (sortOrder b)[originRank b]? = some 0 :=
  List.getElem?_idxOf (mem_sortOrder.2 (List.length_pos_iff.2 h))

/-- Settles O16: the last column is a function of the listed rotations; and what stands below the
origin rank precedes 0, by its rotation since no start index is below 0. -/
theorem transformIsTheSameUnderEveryTieBreak : Obligations.TransformIsTheSameUnderEveryTieBreak := by
  refine fun b => ⟨fun l hperm hsorted => ?_, fun k o hk ho heq => ?_⟩
  · calc l.map (lastChar b)
      _ = (l.map (rotationOf b)).map (·.getLastD 0#8) := map_lastChar_eq b l
      _ = ((sortOrder b).map (rotationOf b)).map (·.getLastD 0#8) := by
          rw [map_rotationOf_eq_of_pairwise hperm hsorted]
      _ = transform b := (map_lastChar_eq b _).symm
  · have hb : b ≠ [] := by
      rintro rfl
      simp at ho
    obtain ⟨hk', rfl⟩ := List.getElem?_eq_some_iff.1 ho
    obtain ⟨hr, hzero⟩ := List.getElem?_eq_some_iff.1 (sortOrder_getElem?_originRank hb)
    have hprec := List.pairwise_iff_getElem.1 (sortOrder_pairwise b) k _ hk' hr hk
    rw [hzero] at hprec
    rcases hprec with hlt | ⟨-, hneg⟩
    · exact Std.ne_of_lt hlt heq
    · exact Nat.not_lt_zero _ hneg

/-! ### The check phases of SORT and CMPR (40_suffix_sort R103, R104) -/

theorem readBlock_of_le (hn : s.len.toNat ≤ s.nmax) : readBlock s = readInput 0 s.len.toNat s := by
  rw [readBlock, checkLen_of_le hn, Check.ok_bind]

theorem readBlock_of_lt (hn : s.nmax < s.len.toNat) :
    readBlock s = .raise .lenRange s.len 0#32 := by
  rw [readBlock, checkLen_of_lt hn, Check.raise_bind]

theorem checkCmpr_of_len_lt (hn : s.nmax < s.len.toNat) :
    checkCmpr s = .raise .lenRange s.len 0#32 := by
  rw [checkCmpr, checkLen_of_lt hn, Check.raise_bind]

theorem checkCmpr_of_arg0_ge (hn : s.len.toNat ≤ s.nmax) (h0 : s.len.toNat ≤ s.arg0.toNat) :
    checkCmpr s = .raise .argRange s.arg0 0#32 := by
  simp [checkCmpr, checkLen_of_le hn, h0]

theorem checkCmpr_of_arg1_ge (hn : s.len.toNat ≤ s.nmax) (h0 : s.arg0.toNat < s.len.toNat)
    (h1 : s.len.toNat ≤ s.arg1.toNat) : checkCmpr s = .raise .argRange s.arg1 1#32 := by
  simp [checkCmpr, checkLen_of_le hn, Nat.not_le.2 h0, h1]

theorem checkCmpr_of_args_lt (hn : s.len.toNat ≤ s.nmax) (h0 : s.arg0.toNat < s.len.toNat)
    (h1 : s.arg1.toNat < s.len.toNat) : checkCmpr s = readInput 0 s.len.toNat s := by
  simp [checkCmpr, checkLen_of_le hn, Nat.not_le.2 h0, Nat.not_le.2 h1]

/-! ### CMPR (40_suffix_sort R103) -/

theorem execCmpr_of_inputIs (hn : s.len.toNat ≤ s.nmax) (h0 : s.arg0.toNat < s.len.toNat)
    (h1 : s.arg1.toNat < s.len.toNat) (hb : s.inputIs b) :
    execCmpr s =
      .next (complete (putResult (resultWord (cmpRot b s.arg0.toNat s.arg1.toNat)) s)) := by
  rw [execCmpr, checkCmpr_of_args_lt hn h0 h1, readInput_of_inputIs hb, runCommand_ok]

/-- Settles O13: each check of `checkCmpr` in turn, and the comparator's outcome as RESULT. -/
theorem cmprComparesTwoRotations : Obligations.CmprComparesTwoRotations := by
  refine ⟨rfl, fun s => ⟨fun hn => ?_, fun hn h0 => ?_, fun hn h0 h1 => ?_, fun hn h0 h1 =>
    ⟨fun i hi => ?_, fun b hb => ⟨_, execCmpr_of_inputIs hn h0 h1 hb, rfl, ?_⟩⟩⟩⟩
  · rw [exec, execCmpr, checkCmpr_of_len_lt hn]
    rfl
  · rw [exec, execCmpr, checkCmpr_of_arg0_ge hn h0]
    rfl
  · rw [exec, execCmpr, checkCmpr_of_arg1_ge hn h0 h1]
    rfl
  · rw [exec, execCmpr, checkCmpr_of_args_lt hn h0 h1, readInput_of_firstUnwritten hi,
      runCommand_fault]
  · obtain ⟨hlt, heq, hgt⟩ := comparatorIsRotationOrder b s.arg0.toNat s.arg1.toNat
    rw [← hlt, ← heq, ← hgt, complete_result, putResult_result]
    refine ⟨fun h => ?_, fun h => ?_, fun h => ?_⟩ <;> rw [h] <;> rfl

/-! ### SORT (40_suffix_sort R104) -/

/-- Settles O14: `readBlock` gives the error, the fault or the block, whose order is written. -/
theorem sortWritesTheOrder : Obligations.SortWritesTheOrder := by
  refine ⟨rfl, fun s => ⟨fun hn => ?_, fun hn => ⟨fun i hi => ?_, fun b hb =>
    ⟨complete (putOrder (sortOrder b) s), ?_, rfl, ?_, fun a ha => ?_⟩⟩⟩⟩
  · rw [exec, execSort, readBlock_of_lt hn]
    rfl
  · rw [exec, execSort, readBlock_of_le hn, readInput_of_firstUnwritten hi, runCommand_fault]
  · rw [exec, execSort, readBlock_of_inputIs hn hb, runCommand_ok]
  · exact Memory.holds_writeMany _ _ _
  · exact read_putOrder_of_le (by rwa [sortOrder_length])

/-! ### ORD after a sort (40_suffix_sort R105) -/

/-- A command that reads the block and answers a next state has committed, when LEN fits. -/
theorem runCommand_readBlock_eq_next {k : List Byte → State → State} (hn : s.len.toNat ≤ s.nmax)
    (h : runCommand (readBlock s) k s = .next t) : ∃ b, s.inputIs b ∧ t = complete (k b s) := by
  rcases (runCommand_eq_next_iff _ _ _ _).1 h with ⟨b, hb, rfl⟩ | ⟨e, info, pos, he, -⟩
  · exact ⟨b, ((readBlock_eq_ok_iff _ _).1 hb).2, rfl⟩
  · rw [readBlock_of_le hn] at he
    exact absurd he (memRead_ne_raise _ _ _ _ _ _ _)

/-- SORT and both forms of BWTE leave the order of the block in ORD. -/
theorem exec_ord_of_sorting {c : Instr} (hc : c ∈ [Instr.sort, .bwte, .bwteS])
    (hn : s.len.toNat ≤ s.nmax) (h : exec c s = .next t) :
    ∃ b, b.length = s.len.toNat ∧ t.ord = (putOrder (sortOrder b) s).ord := by
  simp only [List.mem_cons, List.not_mem_nil, or_false] at hc
  rcases hc with rfl | rfl | rfl <;>
    obtain ⟨b, ⟨hb, -⟩, rfl⟩ := runCommand_readBlock_eq_next hn h <;>
    exact ⟨b, hb, rfl⟩

/-- An element of ORD below the block's length, after the order is written; no index is cut by the
width of ORD. -/
theorem read_putOrder_sortOrder_eq_iff {k v : Nat} (hb : b.length ≤ 2 ^ 32) (hk : k < b.length)
    (hv : v < b.length) :
    Memory.read (putOrder (sortOrder b) s).ord k = some (BitVec.ofNat 32 v) ↔
      (sortOrder b)[k]? = some v := by
  have hk' : k < (sortOrder b).length := by rwa [sortOrder_length]
  have hlt : (sortOrder b)[k] < b.length := mem_sortOrder.1 (List.getElem_mem hk')
  have hread : Memory.read (putOrder (sortOrder b) s).ord k =
      some (BitVec.ofNat 32 (sortOrder b)[k]) := by
    simp [Memory.read_writeMany, hk]
  rw [hread, List.getElem?_eq_getElem hk', Option.some_inj, Option.some_inj, ← BitVec.toNat_inj,
    BitVec.toNat_ofNat, BitVec.toNat_ofNat, Nat.mod_eq_of_lt (by omega),
    Nat.mod_eq_of_lt (by omega)]

/-- Settles O15: the order lists each index once. -/
theorem ordIsAPermutationAfterSorting : Obligations.OrdIsAPermutationAfterSorting := by
  intro c s t hc hn h v hv
  obtain ⟨b, hb, hord⟩ := exec_ord_of_sorting hc hn h
  have h32 : b.length ≤ 2 ^ 32 := hb ▸ s.len.isLt.le
  rw [hord]
  rw [← hb] at hv ⊢
  obtain ⟨k, hkv⟩ := List.mem_iff_getElem?.1 (mem_sortOrder.2 hv)
  obtain ⟨hk, -⟩ := List.getElem?_eq_some_iff.1 hkv
  rw [sortOrder_length] at hk
  refine ⟨k, ⟨hk, (read_putOrder_sortOrder_eq_iff h32 hk hv).2 hkv⟩, fun k' hk' hr => ?_⟩
  have hkv' := (read_putOrder_sortOrder_eq_iff h32 hk' hv).1 hr
  exact (List.getElem?_inj (by rwa [sortOrder_length]) (sortOrder_nodup b)).1 (hkv'.trans hkv.symm)

end Sys2Proof.Machine
end

/-! ## The counting sort (41_bwt R123) -/

section

namespace Sys2Proof.Machine

variable {t : List Byte} {i j v : Nat}

/-! ### Numbers of bytes -/

/-- The number of bytes below the value `v`. -/
def bytesBelow (t : List Byte) (v : Nat) : Nat := t.countP fun x => decide (x.toNat < v)

/-- The number of bytes of the value `v`. -/
def bytesAt (t : List Byte) (v : Nat) : Nat := t.countP fun x => decide (x.toNat = v)

@[simp] theorem bytesBelow_zero (t : List Byte) : bytesBelow t 0 = 0 := by
  simp [bytesBelow]

theorem bytesBelow_succ (t : List Byte) (v : Nat) :
    bytesBelow t (v + 1) = bytesBelow t v + bytesAt t v := by
  unfold bytesBelow bytesAt
  induction t with
  | nil => rfl
  | cons x t ih =>
    simp only [List.countP_cons, decide_eq_true_eq, ih]
    split_ifs <;> omega

theorem bytesBelow_mono (t : List Byte) : Monotone (bytesBelow t) := by
  refine monotone_nat_of_le_succ fun v => ?_
  rw [bytesBelow_succ]
  exact Nat.le_add_right _ _

theorem bytesBelow_le_length (t : List Byte) (v : Nat) : bytesBelow t v ≤ t.length :=
  List.countP_le_length

theorem bytesAt_append (t u : List Byte) (v : Nat) :
    bytesAt (t ++ u) v = bytesAt t v + bytesAt u v :=
  List.countP_append

theorem bytesAt_cons (x : Byte) (t : List Byte) (v : Nat) :
    bytesAt (x :: t) v = bytesAt [x] v + bytesAt t v :=
  bytesAt_append [x] t v

theorem bytesAt_singleton (x : Byte) (v : Nat) :
    bytesAt [x] v = if x.toNat = v then 1 else 0 := by
  simp [bytesAt, List.countP_cons]

/-- The bytes of one value below position `i` are fewer than those below a later position, when
position `i` has that value. -/
theorem bytesAt_take_lt (hi : i < t.length) (hij : i < j) :
    bytesAt (t.take i) t[i].toNat < bytesAt (t.take j) t[i].toNat := by
  have hsub : (t.take i ++ [t[i]]).Sublist (t.take j) := by
    rw [List.take_append_getElem hi]
    exact List.take_sublist_take_left hij
  have hle : bytesAt (t.take i ++ [t[i]]) t[i].toNat ≤ bytesAt (t.take j) t[i].toNat :=
    hsub.countP_le
  rwa [bytesAt_append, bytesAt_singleton, if_pos rfl] at hle

/-! ### The counters -/

theorem bumpCounter_getElem? (cnt : List Nat) (x : Byte) (v : Nat) :
    (bumpCounter cnt x)[v]? = cnt[v]?.map (· + bytesAt [x] v) := by
  rw [bumpCounter, List.getElem?_modify, bytesAt_singleton]
  split_ifs <;> simp

theorem foldl_bumpCounter_getElem? (t : List Byte) (cnt : List Nat) (v : Nat) :
    (t.foldl bumpCounter cnt)[v]? = cnt[v]?.map (· + bytesAt t v) := by
  induction t generalizing cnt with
  | nil => simp [bytesAt]
  | cons x t ih =>
    rw [List.foldl_cons, ih, bumpCounter_getElem?, Option.map_map, bytesAt_cons x t]
    simp [Function.comp_def, Nat.add_assoc]

theorem countSymbols_getElem? (t : List Byte) (hv : v < 256) :
    (countSymbols t)[v]? = some (bytesAt t v) := by
  rw [countSymbols, foldl_bumpCounter_getElem?, List.getElem?_replicate_of_lt hv]
  simp

/-- The sum of the counts of the values below `v`. -/
theorem sum_take_countSymbols (t : List Byte) (hv : v ≤ 256) :
    ((countSymbols t).take v).sum = bytesBelow t v := by
  induction v with
  | zero => simp
  | succ v ih =>
    rw [List.take_add_one, List.sum_append, ih (by omega), countSymbols_getElem? t hv,
      bytesBelow_succ]
    simp

theorem startRanks_getElem? (start : Nat) (cs : List Nat) (hv : v < cs.length) :
    (startRanks start cs)[v]? = some (start + (cs.take v).sum) := by
  induction cs generalizing start v with
  | nil => simp at hv
  | cons c cs ih =>
    cases v with
    | zero => simp [startRanks]
    | succ v =>
      rw [startRanks, List.getElem?_cons_succ, ih _ (by simpa using hv)]
      simp [Nat.add_assoc]

/-- The start rank of a value is the number of bytes below it. -/
theorem startRanks_countSymbols_getElem? (t : List Byte) (hv : v < 256) :
    (startRanks 0 (countSymbols t))[v]? = some (bytesBelow t v) := by
  rw [startRanks_getElem? _ _ (by rwa [countSymbols_length]), sum_take_countSymbols t hv.le,
    Nat.zero_add]

/-- The placement loop counts as the first loop does. -/
theorem placeSymbols_counters (i : Nat) (u : List Byte) (p : List Nat × List Nat) :
    (placeSymbols i u p).2 = u.foldl bumpCounter p.2 := by
  induction u generalizing i p with
  | nil => rfl
  | cons x u ih => rw [placeSymbols, ih, List.foldl_cons]

/-- CNT before position `i`: the bytes below each value, and those of the value up to there. -/
theorem placeSymbols_counters_getElem? (i : Nat) (t u : List Byte) (next : List Nat)
    (hv : v < 256) :
    (placeSymbols i u (next, startRanks 0 (countSymbols t))).2[v]? =
      some (bytesBelow t v + bytesAt u v) := by
  rw [placeSymbols_counters, foldl_bumpCounter_getElem?, startRanks_countSymbols_getElem? t hv,
    Option.map_some]

/-! ### The placement -/

theorem placeSymbols_concat (i : Nat) (u : List Byte) (x : Byte) (p : List Nat × List Nat) :
    placeSymbols i (u ++ [x]) p =
      ((placeSymbols i u p).1.set ((placeSymbols i u p).2.getD x.toNat 0) (i + u.length),
        bumpCounter (placeSymbols i u p).2 x) := by
  induction u generalizing i p with
  | nil => rfl
  | cons y u ih =>
    rw [List.cons_append, placeSymbols, placeSymbols, ih, List.length_cons, Nat.add_right_comm,
      Nat.add_assoc i]

/-- The stable order of positions: by the byte at them, equal bytes by position (41_bwt R123). -/
def stablePrecedes (t : List Byte) (i j : Nat) : Prop :=
  t.getD i 0#8 < t.getD j 0#8 ∨ (t.getD i 0#8 = t.getD j 0#8 ∧ i < j)

theorem stablePrecedes_asymm (hij : stablePrecedes t i j) : ¬ stablePrecedes t j i := by
  unfold stablePrecedes at *
  simp only [BitVec.lt_def, ← BitVec.toNat_inj] at *
  omega

theorem stablePrecedes_trichotomy (t : List Byte) (i j : Nat) :
    stablePrecedes t i j ∨ i = j ∨ stablePrecedes t j i := by
  unfold stablePrecedes
  simp only [BitVec.lt_def, ← BitVec.toNat_inj]
  omega

/-- The place of position `i` in the successor array: CNT at its byte when the loop gets there. -/
def sortedPlace (t : List Byte) (i : Nat) : Nat :=
  bytesBelow t (t.getD i 0#8).toNat + bytesAt (t.take i) (t.getD i 0#8).toNat

theorem sortedPlace_lt_bytesBelow (hi : i < t.length) :
    sortedPlace t i < bytesBelow t ((t.getD i 0#8).toNat + 1) := by
  rw [bytesBelow_succ, sortedPlace, List.getD_eq_getElem _ _ hi, Nat.add_lt_add_iff_left]
  simpa using bytesAt_take_lt hi hi

theorem sortedPlace_lt_length (hi : i < t.length) : sortedPlace t i < t.length :=
  (sortedPlace_lt_bytesBelow hi).trans_le (bytesBelow_le_length _ _)

theorem sortedPlace_lt_of_stablePrecedes (hi : i < t.length) (hij : stablePrecedes t i j) :
    sortedPlace t i < sortedPlace t j := by
  rcases hij with hlt | ⟨heq, hij⟩
  · calc sortedPlace t i
      _ < bytesBelow t ((t.getD i 0#8).toNat + 1) := sortedPlace_lt_bytesBelow hi
      _ ≤ bytesBelow t (t.getD j 0#8).toNat := bytesBelow_mono t hlt
      _ ≤ sortedPlace t j := Nat.le_add_right _ _
  · rw [sortedPlace, sortedPlace, ← heq, List.getD_eq_getElem _ _ hi]
    exact Nat.add_lt_add_left (bytesAt_take_lt hi hij) _

theorem sortedPlace_ne (hi : i < t.length) (hj : j < t.length) (hij : i ≠ j) :
    sortedPlace t i ≠ sortedPlace t j := by
  rcases stablePrecedes_trichotomy t i j with h | h | h
  · exact (sortedPlace_lt_of_stablePrecedes hi h).ne
  · exact absurd h hij
  · exact (sortedPlace_lt_of_stablePrecedes hj h).ne'

/-- After `m` steps of the placement loop the first `m` positions stand at their places. -/
theorem placeSymbols_take_getElem? (t : List Byte) {m : Nat} (hm : m ≤ t.length) (hi : i < m) :
    (placeSymbols 0 (t.take m)
      (List.replicate t.length 0, startRanks 0 (countSymbols t))).1[sortedPlace t i]? = some i := by
  induction m with
  | zero => exact absurd hi i.not_lt_zero
  | succ m ih =>
    have hplace : (placeSymbols 0 (t.take m)
        (List.replicate t.length 0, startRanks 0 (countSymbols t))).2.getD t[m].toNat 0 =
        sortedPlace t m := by
      rw [List.getD_eq_getElem?_getD, placeSymbols_counters_getElem? 0 t _ _ t[m].isLt, sortedPlace,
        List.getD_eq_getElem _ _ hm, Option.getD_some]
    rw [← List.take_append_getElem hm, placeSymbols_concat, hplace,
      List.length_take_of_le (by omega), Nat.zero_add]
    by_cases him : i = m
    · subst him
      refine List.getElem?_set_self ?_
      rw [(placeSymbols_length _ _ _).1, List.length_replicate]
      exact sortedPlace_lt_length hm
    · rw [List.getElem?_set_ne (sortedPlace_ne hm (by omega) (Ne.symm him))]
      exact ih (by omega) (by omega)

theorem successors_sortedPlace (hi : i < t.length) :
    (successors t)[sortedPlace t i]? = some i := by
  have h := placeSymbols_take_getElem? t le_rfl hi
  rwa [List.take_length] at h

/-! ### The successor array -/

theorem successors_perm (t : List Byte) : (successors t).Perm (List.range t.length) := by
  have hsub : List.range t.length ⊆ successors t := fun i hi =>
    List.mem_of_getElem? (successors_sortedPlace (List.mem_range.1 hi))
  exact ((List.nodup_range.subperm hsub).perm_of_length_le (by simp)).symm

theorem mem_successors : i ∈ successors t ↔ i < t.length := by
  rw [(successors_perm t).mem_iff, List.mem_range]

theorem successors_nodup (t : List Byte) : (successors t).Nodup :=
  (successors_perm t).nodup_iff.2 List.nodup_range

theorem sortedPlace_successors {k : Nat} (hk : k < (successors t).length) :
    sortedPlace t (successors t)[k] = k := by
  have h := successors_sortedPlace (mem_successors.1 (List.getElem_mem hk))
  obtain ⟨hp, heq⟩ := List.getElem?_eq_some_iff.1 h
  exact (successors_nodup t).getElem_inj_iff.1 heq

theorem successors_pairwise (t : List Byte) : (successors t).Pairwise (stablePrecedes t) := by
  refine List.pairwise_iff_getElem.2 fun k l hk hl hkl => ?_
  rcases stablePrecedes_trichotomy t (successors t)[k] (successors t)[l] with h | h | h
  · exact h
  · exact absurd ((successors_nodup t).getElem_inj_iff.1 h) hkl.ne
  · have hlt := sortedPlace_lt_of_stablePrecedes (mem_successors.1 (List.getElem_mem hl)) h
    rw [sortedPlace_successors, sortedPlace_successors] at hlt
    omega

/-- Settles O20: two sorted lists of the same positions under an asymmetric order are the same; and
the counters end at the bytes below each value and those of it. -/
theorem successorsSortTheTransformStably : Obligations.SuccessorsSortTheTransformStably := by
  refine fun t l => ⟨⟨?_, fun ⟨hperm, hsorted⟩ => ?_⟩, fun v hv => ?_⟩
  · rintro rfl
    exact ⟨successors_perm t, successors_pairwise t⟩
  · exact List.Perm.eq_of_pairwise (fun i j _ _ hij hji => absurd hji (stablePrecedes_asymm hij))
      hsorted (successors_pairwise t) (hperm.trans (successors_perm t).symm)
  · have hle : (t.countP fun x => decide (x.toNat ≤ v)) = bytesBelow t (v + 1) := by
      simp only [bytesBelow, Nat.lt_succ_iff]
    rw [countingSort, placeSymbols_counters_getElem? 0 t t _ hv, hle, bytesBelow_succ]

end Sys2Proof.Machine
end

/-! ## The forward and the inverse transform (41_bwt R120, R122, R124, R127) -/

section

namespace Sys2Proof.Machine

variable {b t : List Byte} {i j k r : Nat}

/-! ### The origin rank and the last column (41_bwt R120, R122) -/

theorem sortOrder_getElem?_eq_zero_iff (h : b ≠ []) (r : Nat) :
    (sortOrder b)[r]? = some 0 ↔ r = originRank b := by
  refine ⟨fun hr => ?_, fun hr => hr ▸ sortOrder_getElem?_originRank h⟩
  obtain ⟨hlt, -⟩ := List.getElem?_eq_some_iff.1 hr
  exact (List.getElem?_inj hlt (sortOrder_nodup b)).1
    (hr.trans (sortOrder_getElem?_originRank h).symm)

theorem transform_getElem? {o : Nat} (h : (sortOrder b)[i]? = some o) :
    (transform b)[i]? = some (lastChar b o) := by
  rw [transform, List.getElem?_map, h, Option.map_some]

/-- Settles O17: 0 stands once in the order, and each byte of the transform is the last one of its
rotation. -/
theorem originRankAndTransformAreTheBwtPair : Obligations.OriginRankAndTransformAreTheBwtPair := by
  refine ⟨fun b hb => ?_, rfl, rfl⟩
  have hne : b ≠ [] := List.length_pos_iff.1 hb
  refine ⟨sortOrder_getElem?_eq_zero_iff hne, originRank_lt hne, transform_length b,
    fun i o ho => ?_⟩
  have hlt : (o + b.length - 1) % b.length < b.length := Nat.mod_lt _ hb
  rw [transform_getElem? ho, lastChar, cyclicAt, List.getD_eq_getElem _ _ hlt,
    List.getElem?_eq_getElem hlt]

/-- The last characters of the rotations by start index are a rotation of the block. -/
theorem map_lastChar_range (b : List Byte) :
    (List.range b.length).map (lastChar b) = b.rotate (b.length - 1) := by
  rw [← rotationOf_eq_rotate, rotationOf]
  refine List.map_congr_left fun i hi => ?_
  have := List.mem_range.1 hi
  rw [lastChar]
  congr 1
  omega

theorem transform_perm (b : List Byte) : (transform b).Perm b := by
  have h := (sortOrder_perm b).map (lastChar b)
  rw [map_lastChar_range] at h
  exact h.trans (List.rotate_perm b _)

/-- Settles O19: the transform is a permutation of the block. -/
theorem transformPermutesTheBlock : Obligations.TransformPermutesTheBlock :=
  fun b v => (transform_perm b).count_eq v

/-! ### The walk (41_bwt R124) -/

/-- One step of the walk: the successor of a position. -/
abbrev successorOf (t : List Byte) (p : Nat) : Nat := (successors t).getD p 0

theorem successorOf_lt (h : 0 < t.length) (p : Nat) : successorOf t p < t.length := by
  by_cases hp : p < (successors t).length
  · rw [successorOf, List.getD_eq_getElem _ _ hp]
    exact mem_successors.1 (List.getElem_mem hp)
  · rwa [successorOf, List.getD_eq_default _ _ (Nat.le_of_not_lt hp)]

theorem successors_getElem? (hk : k < t.length) :
    (successors t)[k]? = some (successorOf t k) := by
  have hk' : k < (successors t).length := by rwa [successors_length]
  rw [successorOf, List.getD_eq_getElem _ _ hk', List.getElem?_eq_getElem hk']

theorem walk_getElem? (next : List Nat) (t : List Byte) {n : Nat} (pos : Nat) (hk : k < n) :
    (walk next t n pos)[k]? = some (t.getD ((fun p => next.getD p 0)^[k] pos) 0#8) := by
  induction n generalizing k pos with
  | zero => exact absurd hk k.not_lt_zero
  | succ n ih =>
    cases k with
    | zero => rfl
    | succ k => rw [walk, List.getElem?_cons_succ, ih _ (by omega), Function.iterate_succ_apply]

theorem inverseBwt_getElem? (r : Nat) (hk : k < t.length) :
    (inverseBwt r t)[k]? = some (t.getD ((successorOf t)^[k + 1] r) 0#8) := by
  rw [inverseBwt, walk_getElem? _ _ _ hk, Function.iterate_succ_apply]

theorem iterate_successorOf_lt (h : 0 < t.length) (k r : Nat) :
    (successorOf t)^[k + 1] r < t.length := by
  rw [Function.iterate_succ_apply']
  exact successorOf_lt h _

/-- Settles O21: the walk by its count, and every successor is a position. -/
theorem inverseWalkIsCountTerminated : Obligations.InverseWalkIsCountTerminated := by
  refine ⟨fun r => rfl, fun r t hr => ⟨inverseBwt_length r t, fun k hk => ?_⟩⟩
  have hlt := iterate_successorOf_lt (Nat.zero_lt_of_lt hr) k r
  refine ⟨?_, hlt⟩
  rw [inverseBwt_getElem? r hk, List.getD_eq_getElem _ _ hlt, ← List.getElem?_eq_getElem hlt]

/-! ### One step back and one step on along the rotations (41_bwt R127) -/

/-- The start index before `i`, cyclically. -/
def indexBefore (n i : Nat) : Nat := (i + n - 1) % n

theorem map_indexBefore_range (n : Nat) :
    (List.range n).map (indexBefore n) = (List.range n).rotate (n - 1) := by
  refine List.ext_getElem (by simp) fun i hi _ => ?_
  have : 0 < n := by
    simp at hi
    omega
  simp [List.getElem_rotate, indexBefore, Nat.add_sub_assoc this]

theorem rotationOf_succ (b : List Byte) (i : Nat) :
    rotationOf b (i + 1) = (rotationOf b i).rotate 1 := by
  rw [rotationOf_eq_rotate, rotationOf_eq_rotate, List.rotate_rotate]

theorem rotationOf_indexBefore_rotate (h : b ≠ []) (i : Nat) :
    (rotationOf b (indexBefore b.length i)).rotate 1 = rotationOf b i := by
  have hpos := List.length_pos_iff.2 h
  rw [rotationOf_eq_rotate, indexBefore, List.rotate_mod, List.rotate_rotate, rotationOf_eq_rotate,
    ← List.rotate_mod, show i + b.length - 1 + 1 = i + b.length by omega, Nat.add_mod_right,
    List.rotate_mod]

/-- The rotation before Rotation(i) has the last character of Rotation(i) in front. -/
theorem exists_rotationOf_indexBefore (h : b ≠ []) (i : Nat) :
    ∃ l : List Byte, rotationOf b (indexBefore b.length i) = lastChar b i :: l ∧
      rotationOf b i = l ++ [lastChar b i] := by
  have hrot := rotationOf_indexBefore_rotate h i
  rcases hp : rotationOf b (indexBefore b.length i) with _ | ⟨x, l⟩
  · have := rotationOf_length b (indexBefore b.length i)
    rw [hp] at this
    exact absurd (List.length_eq_zero_iff.1 this.symm) h
  · rw [hp, List.rotate_cons_succ, List.rotate_zero] at hrot
    have hx : lastChar b i = x := by
      rw [lastChar_eq_getLastD, ← hrot]
      simp
    exact ⟨l, by rw [hx], by rw [hx, hrot]⟩

/-- A byte behind each of two strings of one length leaves their order. -/
theorem append_singleton_lt {l l' : List Byte} (hlen : l.length = l'.length) (h : l < l')
    (x : Byte) : l ++ [x] < l' ++ [x] := by
  induction l generalizing l' with
  | nil =>
    rw [List.length_eq_zero_iff.1 hlen.symm] at h
    exact absurd h (List.lt_irrefl _)
  | cons y l ih =>
    obtain _ | ⟨y', l'⟩ := l'
    · simp at hlen
    · rw [List.cons_append, List.cons_append, List.cons_lt_cons_iff]
      exact (List.cons_lt_cons_iff.1 h).imp_right fun ⟨hy, hl⟩ =>
        ⟨hy, ih (by simpa using hlen) hl⟩

/-- Rotations in order with last characters in order: the rotations before them are in order. -/
theorem not_rotationOf_indexBefore_lt (h : b ≠ []) (hij : lastChar b i < lastChar b j ∨
    (lastChar b i = lastChar b j ∧ ¬ rotationOf b j < rotationOf b i)) :
    ¬ rotationOf b (indexBefore b.length j) < rotationOf b (indexBefore b.length i) := by
  obtain ⟨l, hpi, hi⟩ := exists_rotationOf_indexBefore h i
  obtain ⟨l', hpj, hj⟩ := exists_rotationOf_indexBefore h j
  rw [hpi, hpj, List.cons_lt_cons_iff]
  rcases hij with hlt | ⟨heq, hle⟩
  · rintro (hgt | ⟨heq, -⟩)
    · exact BitVec.lt_asymm hlt hgt
    · exact Std.ne_of_lt hlt heq.symm
  · rintro (hgt | ⟨-, hl⟩)
    · exact Std.ne_of_lt hgt heq.symm
    · have hlen : l'.length = l.length := by
        have := (rotationOf_length b i).trans (rotationOf_length b j).symm
        rw [hi, hj] at this
        simpa using this.symm
      refine hle ?_
      rw [hi, hj, heq]
      exact append_singleton_lt hlen hl _

/-! ### The successor array of a transform (41_bwt R127) -/

/-- The start index of the sorted rotation of rank `k`. -/
abbrev startAt (b : List Byte) (k : Nat) : Nat := (sortOrder b).getD k 0

theorem sortOrder_getElem?_startAt (hk : k < b.length) :
    (sortOrder b)[k]? = some (startAt b k) := by
  have hk' : k < (sortOrder b).length := by rwa [sortOrder_length]
  rw [startAt, List.getD_eq_getElem _ _ hk', List.getElem?_eq_getElem hk']

theorem not_rotationOf_startAt_lt (hj : j < b.length) (hij : i < j) :
    ¬ rotationOf b (startAt b j) < rotationOf b (startAt b i) := by
  have hj' : j < (sortOrder b).length := by rwa [sortOrder_length]
  have hi' : i < (sortOrder b).length := hij.trans hj'
  rw [startAt, startAt, List.getD_eq_getElem _ _ hi', List.getD_eq_getElem _ _ hj']
  exact List.pairwise_iff_getElem.1 (sortOrder_pairwise_not_lt b) i j hi' hj' hij

theorem transform_getD (hk : k < b.length) :
    (transform b).getD k 0#8 = lastChar b (startAt b k) := by
  rw [List.getD_eq_getElem?_getD, transform_getElem? (sortOrder_getElem?_startAt hk),
    Option.getD_some]

theorem map_startAt_range (b : List Byte) :
    (List.range b.length).map (startAt b) = sortOrder b :=
  List.ext_getElem (by simp) fun k hk hk' => by
    simp [List.getElem?_eq_getElem hk']

/-- For each entry of the successor array the start index before the one of its rank. The rotations
there are sorted again: the second of the two lists that the sketch of R127 pairs. -/
def predecessors (b : List Byte) : List Nat :=
  (successors (transform b)).map fun j => indexBefore b.length (startAt b j)

theorem predecessors_perm (b : List Byte) : (predecessors b).Perm (List.range b.length) := by
  have hs : (successors (transform b)).Perm (List.range b.length) := by
    simpa using successors_perm (transform b)
  have hstart := (hs.map (startAt b)).trans ((map_startAt_range b).symm ▸ sortOrder_perm b)
  have hpred := hstart.map (indexBefore b.length)
  rw [map_indexBefore_range, List.map_map] at hpred
  exact hpred.trans (List.rotate_perm _ _)

theorem predecessors_pairwise (h : b ≠ []) :
    (predecessors b).Pairwise fun i j => ¬ rotationOf b j < rotationOf b i := by
  refine List.pairwise_map.2 ((successors_pairwise (transform b)).imp_of_mem ?_)
  intro i j hi hj hij
  rw [mem_successors, transform_length] at hi hj
  rw [stablePrecedes, transform_getD hi, transform_getD hj] at hij
  exact not_rotationOf_indexBefore_lt h (hij.imp_right (.imp_right (not_rotationOf_startAt_lt hj)))

/-- The successor of rank `k` is the rank of the rotation one step on, as a string: under any
tie-break the two orders list the same rotations. -/
theorem rotationOf_startAt_successorOf (h : b ≠ []) (hk : k < b.length) :
    rotationOf b (startAt b (successorOf (transform b) k)) = rotationOf b (startAt b k + 1) := by
  have hmap := map_rotationOf_eq_of_pairwise (predecessors_perm b) (predecessors_pairwise h)
  have hsucc := successors_getElem? (t := transform b) (by rwa [transform_length])
  have hat := congrArg (fun l : List (List Byte) => l[k]?) hmap
  simp only [predecessors, List.getElem?_map, hsucc, sortOrder_getElem?_startAt hk,
    Option.map_some, Option.some_inj] at hat
  rw [rotationOf_succ, ← hat, rotationOf_indexBefore_rotate h]

theorem startAt_originRank (h : b ≠ []) : startAt b (originRank b) = 0 := by
  rw [startAt, List.getD_eq_getElem?_getD, sortOrder_getElem?_originRank h, Option.getD_some]

theorem rotationOf_congr_succ (h : rotationOf b i = rotationOf b j) :
    rotationOf b (i + 1) = rotationOf b (j + 1) := by
  rw [rotationOf_succ, h, rotationOf_succ]

/-- After `k` steps from the origin rank the walk is at a rank of Rotation(k). -/
theorem rotationOf_startAt_iterate (h : b ≠ []) (k : Nat) :
    (successorOf (transform b))^[k] (originRank b) < b.length ∧
    rotationOf b (startAt b ((successorOf (transform b))^[k] (originRank b))) = rotationOf b k := by
  induction k with
  | zero =>
    rw [Function.iterate_zero_apply, startAt_originRank h]
    exact ⟨originRank_lt h, rfl⟩
  | succ k ih =>
    obtain ⟨hlt, hrot⟩ := ih
    rw [Function.iterate_succ_apply']
    refine ⟨?_, (rotationOf_startAt_successorOf h hlt).trans (rotationOf_congr_succ hrot)⟩
    have hpos : 0 < (transform b).length := by rwa [transform_length, List.length_pos_iff]
    exact (successorOf_lt hpos _).trans_eq (transform_length b)

theorem lastChar_congr (h : rotationOf b i = rotationOf b j) : lastChar b i = lastChar b j := by
  rw [lastChar_eq_getLastD, h, lastChar_eq_getLastD]

theorem lastChar_succ (hk : k < b.length) : lastChar b (k + 1) = b[k] := by
  have : k + 1 + b.length - 1 = k + b.length := by omega
  rw [lastChar, this, cyclicAt, Nat.add_mod_right, Nat.mod_eq_of_lt hk, List.getD_eq_getElem _ _ hk]

theorem inverseBwt_transform (b : List Byte) : inverseBwt (originRank b) (transform b) = b := by
  refine List.ext_getElem? fun k => ?_
  by_cases hk : k < b.length
  · have h : b ≠ [] := List.length_pos_iff.1 (Nat.zero_lt_of_lt hk)
    obtain ⟨hlt, hrot⟩ := rotationOf_startAt_iterate h (k + 1)
    rw [inverseBwt_getElem? _ (by simpa using hk), transform_getD hlt, lastChar_congr hrot,
      lastChar_succ hk, List.getElem?_eq_getElem hk]
  · rw [List.getElem?_eq_none (by simpa using hk), List.getElem?_eq_none (by simpa using hk)]

/-- Settles O24: the walk goes through the rotations in the order of their start index. -/
theorem inverseOfTransformIsTheBlock : Obligations.InverseOfTransformIsTheBlock :=
  fun b _ => inverseBwt_transform b

end Sys2Proof.Machine
end

/-! ## BWTE and BWTD (41_bwt R121, R125, R127) -/

section

namespace Sys2Proof.Machine

variable {s : State} {b x ys : List Byte} {i n : Nat} {r w : Word}

/-! ### The number of bytes in a register, and the header (20_memory R62) -/

theorem ofNat_length_of_inputIs (hb : s.inputIs b) : BitVec.ofNat 32 b.length = s.len := by
  rw [hb.1, BitVec.ofNat_toNat, BitVec.setWidth_eq]

theorem headerBytes_length (r : Word) : (headerBytes r).length = 4 := rfl

theorem headerBytes_getElem? (r : Word) {k : Nat} (hk : k < 4) :
    (headerBytes r)[k]? = some (BitVec.ofNat 8 (r.toNat / 2 ^ (8 * (3 - k)))) := by
  interval_cases k <;> simp [headerBytes, BitVec.extractLsb', Nat.shiftRight_eq_div_pow]

/-- The header is the one of the rank that its bytes make up, most significant first. -/
theorem headerBytes_eq {b0 b1 b2 b3 : Byte}
    (hr : r.toNat = b0.toNat * 2 ^ 24 + b1.toNat * 2 ^ 16 + b2.toNat * 2 ^ 8 + b3.toNat) :
    headerBytes r = [b0, b1, b2, b3] := by
  have h0 := b0.isLt
  have h1 := b1.isLt
  have h2 := b2.isLt
  have h3 := b3.isLt
  simp only [headerBytes, List.cons.injEq, ← BitVec.toNat_inj, BitVec.extractLsb'_toNat,
    Nat.shiftRight_eq_div_pow, and_true]
  omega

theorem Memory.holds_append {α : Type} {m : List (Nat × α)} {a : Nat} {xs ys : List α}
    (h : Memory.holds m a (xs ++ ys)) :
    Memory.holds m a xs ∧ Memory.holds m (a + xs.length) ys := by
  refine ⟨fun i hi => ?_, fun i hi => ?_⟩
  · rw [h i (by rw [List.length_append]; omega), List.getElem?_append_left hi]
  · rw [Nat.add_assoc, h _ (by rw [List.length_append]; omega),
      List.getElem?_append_right (Nat.le_add_right _ _), Nat.add_sub_cancel_left]

/-! ### Commands on the block -/

theorem runCommand_readBlock_of_lt (k : List Byte → State → State) (hn : s.nmax < s.len.toNat) :
    runCommand (readBlock s) k s = s.errorOutcome 2#4 s.len 0#32 := by
  rw [readBlock_of_lt hn, runCommand_raise, next_raiseError, ErrCode.number]

theorem runCommand_readBlock_of_firstUnwritten (k : List Byte → State → State)
    (hn : s.len.toNat ≤ s.nmax) (hi : Memory.firstUnwritten s.ibuf 0 s.len.toNat i) :
    runCommand (readBlock s) k s = .fault (.unwritten .ibuf i) := by
  rw [readBlock_of_le hn, readInput_of_firstUnwritten hi, runCommand_fault]

theorem runCommand_readBlock_of_inputIs (k : List Byte → State → State)
    (hn : s.len.toNat ≤ s.nmax) (hb : s.inputIs b) :
    runCommand (readBlock s) k s = .next (complete (k b s)) := by
  rw [readBlock_of_inputIs hn hb, runCommand_ok]

/-! ### BWTE (41_bwt R121) -/

theorem putOutput_eq (hw : BitVec.ofNat 32 ys.length = w) (s : State) :
    putOutput ys s = { s with obuf := Memory.writeMany s.obuf 0 ys, olen := w } := by
  rw [putOutput, hw]

/-- The elements of OBUF past the output. -/
theorem read_obuf_putOutput_of_le {a : Nat} (h : ys.length ≤ a) (s : State) :
    Memory.read (putOutput ys s).obuf a = Memory.read s.obuf a :=
  Memory.read_writeMany_outside (.inr (by rwa [Nat.zero_add]))

/-- Either form of BWTE on a block: the order, the origin rank, and the output `ys` of length
`w`. -/
theorem runCommand_commitBwte {out : Word → List Byte → List Byte} (hn : s.len.toNat ≤ s.nmax)
    (hb : s.inputIs b) (hy : out (BitVec.ofNat 32 (originRank b)) (transform b) = ys)
    (hw : BitVec.ofNat 32 ys.length = w) :
    ∃ t, runCommand (readBlock s) (commitBwte out) s = .next t ∧
      t = { s with
        ord := t.ord, obuf := t.obuf, origin := BitVec.ofNat 32 (originRank b), olen := w
        status := s.statusDone } ∧
      Memory.holds t.ord 0 ((sortOrder b).map (BitVec.ofNat 32)) ∧
      (∀ a, b.length ≤ a → Memory.read t.ord a = Memory.read s.ord a) ∧
      Memory.holds t.obuf 0 ys ∧
      ∀ a, ys.length ≤ a → Memory.read t.obuf a = Memory.read s.obuf a := by
  refine ⟨_, runCommand_readBlock_of_inputIs _ hn hb, ?_, Memory.holds_writeMany _ _ _, fun a ha =>
    read_putOrder_of_le (by rwa [sortOrder_length]), ?_, fun a ha => ?_⟩ <;> subst hy
  · rw [commitBwte, putOutput_eq hw]
    rfl
  · exact Memory.holds_writeMany _ _ _
  · exact read_obuf_putOutput_of_le ha _

/-- Settles O18: `readBlock` gives the error, the fault or the block; both forms commit alike. -/
theorem bwteWritesTheTransform : Obligations.BwteWritesTheTransform := by
  refine ⟨rfl, rfl, fun s => ⟨fun hn => ⟨runCommand_readBlock_of_lt _ hn,
    runCommand_readBlock_of_lt _ hn⟩, fun hn => ⟨fun i hi =>
      ⟨runCommand_readBlock_of_firstUnwritten _ hn hi,
        runCommand_readBlock_of_firstUnwritten _ hn hi⟩, fun b hb => ⟨?_, ?_⟩⟩⟩⟩
  · have hw : BitVec.ofNat 32 (transform b).length = s.len := by
      rw [transform_length, ofNat_length_of_inputIs hb]
    have h := runCommand_commitBwte (out := fun _ t => t) hn hb rfl hw
    rw [transform_length] at h
    exact h
  · have hlen : (headerBytes (BitVec.ofNat 32 (originRank b)) ++ transform b).length =
        b.length + 4 := by
      rw [List.length_append, headerBytes_length, transform_length, Nat.add_comm]
    have hw : BitVec.ofNat 32 (headerBytes (BitVec.ofNat 32 (originRank b)) ++ transform b).length =
        s.len + 4#32 := by
      rw [hlen, BitVec.ofNat_add, ofNat_length_of_inputIs hb]
    obtain ⟨t, hexec, ht, hord, hordFrame, hout, houtFrame⟩ :=
      runCommand_commitBwte (out := fun r t => headerBytes r ++ t) hn hb rfl hw
    rw [hlen] at houtFrame
    obtain ⟨hheader, htransform⟩ := Memory.holds_append hout
    have horigin : t.origin = BitVec.ofNat 32 (originRank b) := congrArg State.origin ht
    refine ⟨t, hexec, ht, hord, hordFrame, fun k hk => ?_, ?_, houtFrame⟩
    · have := hheader k hk
      rwa [Nat.zero_add, headerBytes_getElem? _ hk, ← horigin] at this
    · exact htransform

/-! ### BWTD with S = 0 (41_bwt R125) -/

theorem checkOrigin_of_le (h1 : 1 ≤ n) (hr : n ≤ r.toNat) :
    checkOrigin n r = .raise .originRange r 0#32 := by
  simp [checkOrigin, hr, h1]

/-- Any rank is good for the empty transform. -/
theorem checkOrigin_of_valid (h : n = 0 ∨ r.toNat < n) : checkOrigin n r = .ok () := by
  rcases h with rfl | h
  · rfl
  · simp [checkOrigin, Nat.not_le.2 h]

theorem checkBwtd_of_lt (hn : s.nmax < s.len.toNat) :
    checkBwtd s = .raise .lenRange s.len 0#32 := by
  rw [checkBwtd, checkLen_of_lt hn, Check.raise_bind]

theorem checkBwtd_of_origin_ge (hn : s.len.toNat ≤ s.nmax) (h1 : 1 ≤ s.len.toNat)
    (ho : s.len.toNat ≤ s.origin.toNat) : checkBwtd s = .raise .originRange s.origin 0#32 := by
  rw [checkBwtd, checkLen_of_le hn, Check.ok_bind, checkOrigin_of_le h1 ho, Check.raise_bind]

theorem checkBwtd_of_valid (hn : s.len.toNat ≤ s.nmax)
    (ho : s.len.toNat = 0 ∨ s.origin.toNat < s.len.toNat) :
    checkBwtd s = readInput 0 s.len.toNat s := by
  rw [checkBwtd, checkLen_of_le hn, Check.ok_bind, checkOrigin_of_valid ho, Check.ok_bind]

theorem execBwtd_of_inputIs (hn : s.len.toNat ≤ s.nmax)
    (ho : s.len.toNat = 0 ∨ s.origin.toNat < s.len.toNat) (hx : s.inputIs x) :
    execBwtd s = .next (complete (commitBwtd s.origin x s)) := by
  rw [execBwtd, checkBwtd_of_valid hn ho, readInput_of_inputIs hx, runCommand_ok]

/-- The elements that BWTD writes, and those that it leaves. -/
theorem commitBwtd_buffers (r : Word) (x : List Byte) (s : State) :
    Memory.holds (commitBwtd r x s).ord 0 ((successors x).map (BitVec.ofNat 32)) ∧
    (∀ a, x.length ≤ a → Memory.read (commitBwtd r x s).ord a = Memory.read s.ord a) ∧
    Memory.holds (commitBwtd r x s).obuf 0 (inverseBwt r.toNat x) ∧
    ∀ a, x.length ≤ a → Memory.read (commitBwtd r x s).obuf a = Memory.read s.obuf a := by
  rw [commitBwtd_eq]
  exact ⟨Memory.holds_writeMany _ _ _, fun a ha => read_putOrder_of_le (by rwa [successors_length]),
    Memory.holds_writeMany _ _ _,
    fun a ha => read_obuf_putOutput_of_le (by rwa [inverseBwt_length]) _⟩

/-- The registers after BWTD: OLEN is the length `w`. -/
theorem commitBwtd_frame (r : Word) (hw : BitVec.ofNat 32 x.length = w) (s : State) :
    commitBwtd r x s =
      { s with
        ord := (commitBwtd r x s).ord
        obuf := (commitBwtd r x s).obuf
        olen := w
        cnt := (commitBwtd r x s).cnt } := by
  rw [commitBwtd_eq, putOutput_eq (w := w) (by rwa [inverseBwt_length])]
  rfl

/-- Settles O22: each check of `checkBwtd` in turn, and the commit. -/
theorem bwtdWritesTheInverse : Obligations.BwtdWritesTheInverse := by
  refine ⟨rfl, fun s => ⟨fun hn => ?_, fun hn h1 ho => ?_, fun h0 => ?_, fun hn ho =>
    ⟨fun i hi => ?_, fun x hx => ?_⟩⟩⟩
  · rw [exec, execBwtd, checkBwtd_of_lt hn]
    rfl
  · rw [exec, execBwtd, checkBwtd_of_origin_ge hn h1 ho]
    rfl
  · have hlen : s.len.toNat = 0 := congrArg BitVec.toNat h0
    have hx : s.inputIs [] := ⟨hlen.symm, fun i hi => absurd hi i.not_lt_zero⟩
    rw [exec, execBwtd_of_inputIs (hlen ▸ Nat.zero_le _) (.inl hlen) hx, commitBwtd_nil]
    rfl
  · rw [exec, execBwtd, checkBwtd_of_valid hn (.inr ho), readInput_of_firstUnwritten hi,
      runCommand_fault]
  · refine ⟨_, execBwtd_of_inputIs hn (.inr ho) hx, ?_, commitBwtd_buffers s.origin x s⟩
    exact congrArg complete (commitBwtd_frame _ (ofNat_length_of_inputIs hx) s)

/-! ### BWTD with S = 1 (41_bwt R125) -/

theorem checkBwtdS_of_lt (hn : s.nmax + 4 < s.len.toNat) :
    checkBwtdS s = .raise .lenRange s.len 0#32 := by
  rw [checkBwtdS, checkLen_of_lt hn, Check.raise_bind]

theorem checkBwtdS_of_short (h4 : s.len.toNat < 4) :
    checkBwtdS s = .raise .hdrShort s.len 0#32 := by
  have hn : s.len.toNat ≤ s.nmax + 4 := by omega
  simp [checkBwtdS, checkLen_of_le hn, h4]

theorem checkBwtdS_of_header_unwritten (hn : s.len.toNat ≤ s.nmax + 4) (h4 : 4 ≤ s.len.toNat)
    (hi : Memory.firstUnwritten s.ibuf 0 4 i) :
    checkBwtdS s = .fault (.unwritten .ibuf i) := by
  simp [checkBwtdS, checkLen_of_le hn, Nat.not_lt.2 h4, readInput_of_firstUnwritten hi]

/-- A stream whose header holds the rank `r`: what is left to check. -/
theorem checkBwtdS_of_header (hn : s.len.toNat ≤ s.nmax + 4) (h4 : 4 ≤ s.len.toNat)
    (hh : Memory.holds s.ibuf 0 (headerBytes r)) :
    checkBwtdS s =
      (checkOrigin (s.len.toNat - 4) r).bind fun _ =>
        (readInput 4 (s.len.toNat - 4) s).bind fun t => .ok (r, t) := by
  have hread : readInput 0 4 s = .ok (headerBytes r) :=
    (readInput_eq_ok_iff _ _ _ _).2 ⟨headerBytes_length r, hh⟩
  simp [checkBwtdS, checkLen_of_le hn, Nat.not_lt.2 h4, hread, headerRank_headerBytes]

theorem execBwtdS_of_header (hn : s.len.toNat ≤ s.nmax + 4) (h4 : 4 ≤ s.len.toNat)
    (hh : Memory.holds s.ibuf 0 (headerBytes r))
    (ho : s.len.toNat - 4 = 0 ∨ r.toNat < s.len.toNat - 4) (hx : x.length = s.len.toNat - 4)
    (hin : Memory.holds s.ibuf 4 x) :
    execBwtdS s = .next (complete (putOrigin r (commitBwtd r x s))) := by
  have hread : readInput 4 (s.len.toNat - 4) s = .ok x := (readInput_eq_ok_iff _ _ _ _).2 ⟨hx, hin⟩
  rw [execBwtdS, checkBwtdS_of_header hn h4 hh, checkOrigin_of_valid ho, Check.ok_bind, hread,
    Check.ok_bind, runCommand_ok]

theorem ofNat_len_sub_four (h4 : 4 ≤ s.len.toNat) :
    BitVec.ofNat 32 (s.len.toNat - 4) = s.len - 4#32 := by
  refine BitVec.eq_of_toNat_eq ?_
  have := s.len.isLt
  rw [BitVec.toNat_ofNat, BitVec.toNat_sub, BitVec.toNat_ofNat]
  omega

/-- Settles O23: each check of `checkBwtdS` in turn, and the commit with the header's rank. -/
theorem bwtdOfAStreamReadsItsHeader : Obligations.BwtdOfAStreamReadsItsHeader := by
  refine ⟨rfl, fun s => ⟨fun hn => ?_, fun h4 => ?_, fun hn h4 =>
    ⟨fun i hi => ?_, fun b0 b1 b2 b3 r hh hr => ?_⟩⟩⟩
  · rw [exec, execBwtdS, checkBwtdS_of_lt hn]
    rfl
  · rw [exec, execBwtdS, checkBwtdS_of_short h4]
    rfl
  · rw [exec, execBwtdS, checkBwtdS_of_header_unwritten hn h4 hi, runCommand_fault]
  rw [← headerBytes_eq hr] at hh
  refine ⟨fun hlt ho => ?_, fun h0 => ?_, fun ho => ⟨fun i hi => ?_, fun x hx hin => ?_⟩⟩
  · rw [exec, execBwtdS, checkBwtdS_of_header hn h4 hh, checkOrigin_of_le (by omega) ho]
    rfl
  · have hlen : s.len.toNat - 4 = 0 := by omega
    rw [exec, execBwtdS_of_header (x := []) hn h4 hh (.inl hlen) hlen.symm
      (fun i hi => absurd hi i.not_lt_zero), commitBwtd_nil]
    rfl
  · rw [exec, execBwtdS, checkBwtdS_of_header hn h4 hh, checkOrigin_of_valid (.inr ho),
      Check.ok_bind, readInput_of_firstUnwritten hi, Check.fault_bind, runCommand_fault]
  · refine ⟨_, execBwtdS_of_header hn h4 hh (.inr ho) hx hin, ?_, commitBwtd_buffers r x s⟩
    have hw : BitVec.ofNat 32 x.length = s.len - 4#32 := by rw [hx, ofNat_len_sub_four h4]
    exact congrArg (fun u => complete (putOrigin r u)) (commitBwtd_frame r hw s)

/-! ### The round trip (41_bwt R127) -/

/-- MOVE of an output that a command has just left, when OLEN holds its length. -/
theorem execMove_putOutput (hy : ys.length < 2 ^ 32) (s : State) :
    execMove (complete (putOutput ys s)) =
      .next (complete (putInput ys (complete (putOutput ys s)))) := by
  have hread : memRead .obuf (putOutput ys s).obuf 0 (putOutput ys s).olen.toNat = .ok ys := by
    refine (memRead_eq_ok_iff _ _ _ _ _).2 ⟨?_, Memory.holds_writeMany _ _ _⟩
    rw [putOutput_olen, BitVec.toNat_ofNat, Nat.mod_eq_of_lt hy]
  rw [execMove, complete_obuf, complete_olen, hread, runCommand_ok]

theorem length_eq_zero_or_originRank_lt (b : List Byte) :
    b.length = 0 ∨ originRank b < b.length := by
  cases b with
  | nil => exact .inl rfl
  | cons y b => exact .inr (originRank_lt (by simp))

theorem toNat_ofNat_originRank (hb : b.length < 2 ^ 32) :
    (BitVec.ofNat 32 (originRank b)).toNat = originRank b := by
  rw [BitVec.toNat_ofNat, Nat.mod_eq_of_lt]
  rcases length_eq_zero_or_originRank_lt b with h | h
  · rw [List.length_eq_zero_iff.1 h]
    decide
  · exact h.trans hb

/-- BWTD of the transform of a block with its origin rank. -/
theorem commitBwtd_transform (hb : s.inputIs b) {u v : State}
    (hv : v = commitBwtd (BitVec.ofNat 32 (originRank b)) (transform b) u) :
    v.status = u.status ∧ v.olen = s.len ∧ Memory.holds v.obuf 0 b := by
  subst hv
  have hw : BitVec.ofNat 32 (transform b).length = s.len := by
    rw [transform_length, ofNat_length_of_inputIs hb]
  have hframe := commitBwtd_frame (BitVec.ofNat 32 (originRank b)) hw u
  obtain ⟨-, -, hout, -⟩ := commitBwtd_buffers (BitVec.ofNat 32 (originRank b)) (transform b) u
  rw [toNat_ofNat_originRank (hb.1 ▸ s.len.isLt), inverseBwt_transform] at hout
  exact ⟨by rw [hframe], by rw [hframe], hout⟩

/-- Either form of BWTE, and MOVE: the output `ys` stands in IBUF, the origin rank in ORIGIN. -/
theorem runCommand_commitBwte_move {out : Word → List Byte → List Byte}
    (hn : s.len.toNat ≤ s.nmax) (hb : s.inputIs b)
    (hout : out (BitVec.ofNat 32 (originRank b)) (transform b) = ys) (hy : ys.length < 2 ^ 32) :
    ∃ t u, runCommand (readBlock s) (commitBwte out) s = .next t ∧ execMove t = .next u ∧
      u.status.err = s.status.err ∧ u.nmax = s.nmax ∧
      u.origin = BitVec.ofNat 32 (originRank b) ∧ u.inputIs ys := by
  subst hout
  refine ⟨_, _, runCommand_readBlock_of_inputIs _ hn hb, execMove_putOutput hy _, rfl, rfl, rfl, ?_,
    Memory.holds_writeMany _ _ _⟩
  rw [complete_len, putInput_len, BitVec.toNat_ofNat, Nat.mod_eq_of_lt hy]

/-- Settles O25: MOVE puts what BWTE leaves before BWTD, whose walk undoes the transform. -/
theorem bwtRoundTripReturnsTheBlock : Obligations.BwtRoundTripReturnsTheBlock := by
  intro s b hcap hn hb
  have hrank : (BitVec.ofNat 32 (originRank b)).toNat = originRank b :=
    toNat_ofNat_originRank (hb.1 ▸ s.len.isLt)
  have hlen : b.length ≤ s.nmax := hb.1 ▸ hn
  constructor
  · obtain ⟨t, u, ht, hu, herr, hnmax, horigin, hin⟩ :=
      runCommand_commitBwte_move (out := fun _ t => t) hn hb rfl (by rw [transform_length]; omega)
    have hul : u.len.toNat = b.length := hin.1.symm.trans (transform_length b)
    have hv := execBwtd_of_inputIs (by rwa [hul, hnmax])
      (by rw [hul, horigin, hrank]; exact length_eq_zero_or_originRank_lt b) hin
    rw [horigin] at hv
    obtain ⟨hstatus, holen, hobuf⟩ := commitBwtd_transform hb (u := u) rfl
    refine ⟨t, u, _, ht, hu, hv, ?_, holen, hobuf⟩
    rw [complete_status, hstatus, herr]
  · obtain ⟨t, u, ht, hu, herr, hnmax, -, hin⟩ :=
      runCommand_commitBwte_move (out := fun r t => headerBytes r ++ t) hn hb rfl
        (by rw [List.length_append, headerBytes_length, transform_length]; omega)
    obtain ⟨hul, hibuf⟩ := hin
    rw [List.length_append, headerBytes_length, transform_length] at hul
    obtain ⟨hheader, htransform⟩ := Memory.holds_append hibuf
    have hul4 : u.len.toNat - 4 = b.length := by omega
    have hv := execBwtdS_of_header (by omega) (by omega) hheader
      (by rw [hul4, hrank]; exact length_eq_zero_or_originRank_lt b)
      (by rw [hul4, transform_length]) htransform
    obtain ⟨hstatus, holen, hobuf⟩ := commitBwtd_transform hb (u := u) rfl
    refine ⟨t, u, _, ht, hu, hv, ?_, holen, hobuf⟩
    rw [complete_status, putOrigin_status, hstatus, herr]

end Sys2Proof.Machine
end

/-! ## The Move-to-Front unit (42_mtf)

MTFE and MTFD run one loop over the recency list; they differ in the rank that moves to the front
and in the byte that is emitted. What holds of both is proved of that loop, once. -/

section

namespace Sys2Proof.Machine

variable {s t u : State} {l x y : List Byte} {v : Byte} {i k n : Nat}

/-! ### The recency list (10_state R45, R46; 42_mtf R141) -/

theorem mem_identityList_of_lt (h : v.toNat < n) : v ∈ identityList n :=
  List.mem_map.2 ⟨v.toNat, List.mem_range.2 h, by rw [BitVec.ofNat_toNat, BitVec.setWidth_eq]⟩

theorem identityList_nodup (h : n ≤ 256) : (identityList n).Nodup := by
  refine List.nodup_range.map_on fun a ha b hb hab => ?_
  have hab := congrArg BitVec.toNat hab
  rw [List.mem_range] at ha hb
  rwa [BitVec.toNat_ofNat, BitVec.toNat_ofNat, Nat.mod_eq_of_lt (by omega),
    Nat.mod_eq_of_lt (by omega)] at hab

theorem eq_idxOf_of_getElem? (hl : l.Nodup) (h : l[k]? = some v) : k = l.idxOf v := by
  obtain ⟨hk, -⟩ := List.getElem?_eq_some_iff.1 h
  exact (List.getElem?_inj hk hl).1 (h.trans (List.getElem?_idxOf (List.mem_of_getElem? h)).symm)

theorem toNat_ofNat_of_lt_length (hl : l.length ≤ 256) (hk : k < l.length) :
    (BitVec.ofNat 8 k).toNat = k := by
  rw [BitVec.toNat_ofNat]
  omega

/-- Settles O26: R141's equation, with `moveToFront_perm`. -/
theorem moveToFrontIsAPermutation : Obligations.MoveToFrontIsAPermutation := by
  refine fun l k v h => ⟨moveToFront_of_getElem? h, moveToFront_perm l k, ?_⟩
  cases l with
  | nil => rfl
  | cons w l => exact moveToFront_of_getElem? rfl

/-- Settles O27: on a list without repeats `idxOf` gives the one rank of a symbol, and a byte holds
it. -/
theorem mtfLoopsFollowTheRecencyList : Obligations.MtfLoopsFollowTheRecencyList := by
  refine fun l v xs hl h256 => ⟨fun k hk h => ⟨?_, ?_⟩, rfl, rfl⟩
  · rw [mtfEncode, ← eq_idxOf_of_getElem? hl h, moveToFront_of_getElem? h]
  · rw [mtfDecode, toNat_ofNat_of_lt_length h256 hk, moveToFront_of_getElem? h,
      List.getD_eq_getElem?_getD, h, Option.getD_some]

/-! ### The loop of both coders (42_mtf R142, R143) -/

/-- What MTFE and MTFD differ in. -/
structure Coder where
  /-- The error of a byte that is ALPHA or more. -/
  code : ErrCode
  /-- The rank, in the list, that an input byte moves to the front. -/
  rank : List Byte → Byte → Nat
  /-- The byte emitted for an input byte, from the list before the move. -/
  out : List Byte → Byte → Byte

/-- MTFE's part: the input is a symbol, the output its rank (42_mtf R142). -/
def encoder : Coder := ⟨.symbolRange, fun l v => l.idxOf v, fun l v => BitVec.ofNat 8 (l.idxOf v)⟩

/-- MTFD's part: the input is a rank, the output its symbol (42_mtf R143). -/
def decoder : Coder := ⟨.rankRange, fun _ r => r.toNat, fun l r => l.getD r.toNat 0#8⟩

variable {c : Coder}

/-- The output and the final list, from the list `l` on. -/
def Coder.loop (c : Coder) : List Byte → List Byte → List Byte × List Byte
  | l, [] => ([], l)
  | l, v :: x =>
    let rest := c.loop (moveToFront l (c.rank l v)) x
    (c.out l v :: rest.1, rest.2)

theorem encoder_loop (l x : List Byte) : encoder.loop l x = mtfEncode l x := by
  induction x generalizing l with
  | nil => rfl
  | cons v x ih => rw [Coder.loop, mtfEncode, ih]; rfl

theorem decoder_loop (l x : List Byte) : decoder.loop l x = mtfDecode l x := by
  induction x generalizing l with
  | nil => rfl
  | cons r x ih => rw [Coder.loop, mtfDecode, ih]; rfl

@[simp] theorem Coder.loop_length (c : Coder) (l x : List Byte) :
    (c.loop l x).1.length = x.length := by
  induction x generalizing l with
  | nil => rfl
  | cons v x ih => simp [Coder.loop, ih]

theorem Coder.loop_perm (c : Coder) (l x : List Byte) : (c.loop l x).2.Perm l := by
  induction x generalizing l with
  | nil => exact .refl l
  | cons v x ih => exact (ih _).trans (moveToFront_perm l _)

/-- The loop on a stream cut in two (42_mtf R146). -/
theorem Coder.loop_append (c : Coder) (l x z : List Byte) :
    c.loop l (x ++ z) =
      ((c.loop l x).1 ++ (c.loop (c.loop l x).2 z).1, (c.loop (c.loop l x).2 z).2) := by
  induction x generalizing l with
  | nil => rfl
  | cons v x ih => simp [Coder.loop, ih]

/-- The list before byte `k` of the stream. -/
def Coder.listBefore (c : Coder) (l x : List Byte) (k : Nat) : List Byte := (c.loop l (x.take k)).2

theorem Coder.listBefore_length (c : Coder) (l x : List Byte) :
    c.listBefore l x x.length = (c.loop l x).2 := by
  rw [Coder.listBefore, List.take_length]

theorem Coder.listBefore_perm (c : Coder) (l x : List Byte) (k : Nat) :
    (c.listBefore l x k).Perm l := c.loop_perm l _

theorem Coder.listBefore_succ (c : Coder) (l : List Byte) (h : x[k]? = some v) :
    c.listBefore l x (k + 1) =
      moveToFront (c.listBefore l x k) (c.rank (c.listBefore l x k) v) := by
  rw [Coder.listBefore, List.take_add_one, h, Coder.loop_append]
  rfl

theorem Coder.loop_getElem? (c : Coder) (l : List Byte) (h : x[k]? = some v) :
    (c.loop l x).1[k]? = some (c.out (c.listBefore l x k) v) := by
  induction x generalizing l k with
  | nil => simp at h
  | cons w x ih =>
    cases k with
    | zero =>
      cases h
      rfl
    | succ k => exact ih _ h

/-! ### The decoder undoes the encoder (42_mtf R145) -/

theorem mtfDecode_mtfEncode (hl : l.length ≤ 256) (hx : ∀ v ∈ x, v ∈ l) :
    mtfDecode l (mtfEncode l x).1 = (x, (mtfEncode l x).2) := by
  induction x generalizing l with
  | nil => rfl
  | cons v x ih =>
    have hv : v ∈ l := hx v List.mem_cons_self
    have hperm := moveToFront_perm l (l.idxOf v)
    have hrest := ih (hperm.length_eq ▸ hl) fun w hw =>
      hperm.mem_iff.2 (hx w (List.mem_cons_of_mem v hw))
    rw [mtfEncode, mtfDecode, toNat_ofNat_of_lt_length hl (List.idxOf_lt_length_iff.2 hv), hrest,
      List.getD_eq_getElem?_getD, List.getElem?_idxOf hv, Option.getD_some]

/-- The encoder's output is good input for the decoder: every rank is below ALPHA. -/
theorem toNat_lt_of_mem_mtfEncode (hx : ∀ v ∈ x, v ∈ l) :
    ∀ r ∈ (mtfEncode l x).1, r.toNat < l.length := by
  induction x generalizing l with
  | nil => simp [mtfEncode]
  | cons v x ih =>
    have hperm := moveToFront_perm l (l.idxOf v)
    have hrest := ih (l := moveToFront l (l.idxOf v)) fun w hw =>
      hperm.mem_iff.2 (hx w (List.mem_cons_of_mem v hw))
    rw [hperm.length_eq] at hrest
    refine List.forall_mem_cons.2 ⟨?_, hrest⟩
    have hlt := List.idxOf_lt_length_iff.2 (hx v List.mem_cons_self)
    rw [BitVec.toNat_ofNat]
    exact (Nat.mod_le _ _).trans_lt hlt

/-! ### The check phase of MTFE and MTFD (60_exceptions R173) -/

theorem checkBytes_of_lt {alpha : Nat} (code : ErrCode) (i : Nat)
    (hx : ∀ v ∈ x, v.toNat < alpha) : checkBytes alpha code i x = .ok () := by
  induction x generalizing i with
  | nil => rfl
  | cons v x ih =>
    obtain ⟨hv, hx⟩ := List.forall_mem_cons.1 hx
    rw [checkBytes, if_neg (Nat.not_le.2 hv), ih _ hx]

/-- The first byte that is ALPHA or more is the error, with its index. -/
theorem checkBytes_of_first_ge {alpha : Nat} (code : ErrCode) (i : Nat) (hk : x[k]? = some v)
    (hv : alpha ≤ v.toNat) (hfirst : ∀ j w, j < k → x[j]? = some w → w.toNat < alpha) :
    checkBytes alpha code i x = .raise code (v.setWidth 32) (BitVec.ofNat 32 (i + k)) := by
  induction x generalizing i k with
  | nil => simp at hk
  | cons w x ih =>
    cases k with
    | zero =>
      cases hk
      rw [checkBytes, if_pos hv, Nat.add_zero]
    | succ k =>
      have hw : w.toNat < alpha := hfirst 0 w k.succ_pos rfl
      rw [checkBytes, if_neg (Nat.not_le.2 hw), ih (i + 1) hk fun j w' hj h =>
        hfirst (j + 1) w' (Nat.succ_lt_succ hj) h, Nat.add_right_comm, Nat.add_assoc]

theorem checkMtf_of_inputIs (code : ErrCode) (hn : s.len.toNat ≤ s.bufsz) (hx : s.inputIs x) :
    checkMtf code s = (checkBytes s.alpha.toNat code 0 x).bind fun _ => .ok x := by
  rw [checkMtf, readStream_of_inputIs hn hx, Check.ok_bind]

/-! ### A coder's command (42_mtf R142, R143) -/

/-- A coder's command from the list `l`. -/
def Coder.run (c : Coder) (l : List Byte) (s : State) : Result :=
  runCommand (checkMtf c.code s) (fun x => commitMtf (c.loop l x)) s

/-- Both forms of MTFE are the encoder's command. -/
theorem exec_mtfe_eq_run {i : Instr} (h : (i, l) ∈
    [(Instr.mtfe, identityList s.alpha.toNat), (Instr.mtfeC, s.lst)]) :
    exec i s = encoder.run l s := by
  simp only [List.mem_cons, Prod.mk.injEq, List.not_mem_nil, or_false] at h
  simp only [Coder.run, encoder_loop]
  rcases h with ⟨rfl, rfl⟩ | ⟨rfl, rfl⟩ <;> rfl

/-- Both forms of MTFD are the decoder's command. -/
theorem exec_mtfd_eq_run {i : Instr} (h : (i, l) ∈
    [(Instr.mtfd, identityList s.alpha.toNat), (Instr.mtfdC, s.lst)]) :
    exec i s = decoder.run l s := by
  simp only [List.mem_cons, Prod.mk.injEq, List.not_mem_nil, or_false] at h
  simp only [Coder.run, decoder_loop]
  rcases h with ⟨rfl, rfl⟩ | ⟨rfl, rfl⟩ <;> rfl

theorem Coder.run_of_lt (c : Coder) (l : List Byte) (hn : s.bufsz < s.len.toNat) :
    c.run l s = s.errorOutcome 2#4 s.len 0#32 := by
  rw [Coder.run, checkMtf, readStream, checkLen_of_lt hn]
  rfl

theorem Coder.run_of_firstUnwritten (c : Coder) (l : List Byte) (hn : s.len.toNat ≤ s.bufsz)
    (hi : Memory.firstUnwritten s.ibuf 0 s.len.toNat i) :
    c.run l s = .fault (.unwritten .ibuf i) := by
  rw [Coder.run, checkMtf, readStream, checkLen_of_le hn, Check.ok_bind,
    readInput_of_firstUnwritten hi]
  rfl

theorem Coder.run_of_first_ge (c : Coder) (l : List Byte) (hn : s.len.toNat ≤ s.bufsz)
    (hx : s.inputIs x) (hk : x[k]? = some v) (hv : s.alpha.toNat ≤ v.toNat)
    (hfirst : ∀ j w, j < k → x[j]? = some w → w.toNat < s.alpha.toNat) :
    c.run l s = s.errorOutcome c.code.number (v.setWidth 32) (BitVec.ofNat 32 k) := by
  rw [Coder.run, checkMtf_of_inputIs _ hn hx, checkBytes_of_first_ge _ _ hk hv hfirst,
    Check.raise_bind, runCommand_raise, next_raiseError, Nat.zero_add]

theorem Coder.run_of_forall_lt (c : Coder) (l : List Byte) (hn : s.len.toNat ≤ s.bufsz)
    (hx : s.inputIs x) (hv : ∀ v ∈ x, v.toNat < s.alpha.toNat) :
    c.run l s = .next (complete (commitMtf (c.loop l x) s)) := by
  rw [Coder.run, checkMtf_of_inputIs _ hn hx, checkBytes_of_lt _ _ hv, Check.ok_bind,
    runCommand_ok]

/-- The commit of a coder's command: its output, its list, and the fields it leaves. -/
theorem Coder.commit_spec (c : Coder) (l : List Byte) (hx : s.inputIs x)
    (ht : t = complete (commitMtf (c.loop l x) s)) :
    t = { s with obuf := t.obuf, olen := s.len, lst := t.lst, status := s.statusDone } ∧
    (∀ a, x.length ≤ a → Memory.read t.obuf a = Memory.read s.obuf a) ∧
    Memory.holds t.obuf 0 (c.loop l x).1 ∧ t.lst = (c.loop l x).2 := by
  subst ht
  have hw : BitVec.ofNat 32 (c.loop l x).1.length = s.len := by
    rw [Coder.loop_length, ofNat_length_of_inputIs hx]
  refine ⟨?_, fun a ha => read_obuf_putOutput_of_le (by rwa [Coder.loop_length]) s,
    Memory.holds_writeMany _ _ _, rfl⟩
  rw [commitMtf, putOutput_eq hw]
  rfl

theorem Coder.read_output {m : List Host.Cell} (h : Memory.holds m 0 (c.loop l x).1)
    (hk : x[k]? = some v) : Memory.read m k = some (c.out (c.listBefore l x k) v) := by
  obtain ⟨hkx, -⟩ := List.getElem?_eq_some_iff.1 hk
  rw [← Nat.zero_add k, h k (by rwa [Coder.loop_length]), Nat.zero_add, c.loop_getElem? l hk]

/-- Settles O28: the outcomes of the encoder's command; `ls` is `listBefore`, in which `idxOf` gives
the one rank of each symbol. -/
theorem mtfeEncodesTheStream : Obligations.MtfeEncodesTheStream := by
  refine ⟨rfl, rfl, fun s i l hi => ?_⟩
  rw [exec_mtfe_eq_run hi]
  refine ⟨encoder.run_of_lt l, fun hn => ⟨fun k => encoder.run_of_firstUnwritten l hn, fun x hx =>
    ⟨fun k v => encoder.run_of_first_ge l hn hx, fun hlt => ?_⟩⟩⟩
  obtain ⟨hframe, hrest, hout, hlst⟩ := encoder.commit_spec l hx rfl
  refine ⟨_, encoder.run_of_forall_lt l hn hx hlt, hframe, hrest, fun hl h256 =>
    ⟨encoder.listBefore l x, rfl, hlst ▸ encoder.listBefore_length l x, fun k v hk => ?_⟩⟩
  have hperm := (encoder.listBefore_perm l x k).trans hl
  have hnodup := hperm.nodup_iff.2 (identityList_nodup h256)
  have hmem : v ∈ encoder.listBefore l x k :=
    hperm.mem_iff.2 (mem_identityList_of_lt (hlt v (List.mem_of_getElem? hk)))
  have hrank := List.getElem?_idxOf hmem
  have hbound := List.idxOf_lt_length_iff.2 hmem
  rw [hperm.length_eq, identityList_length] at hbound
  exact ⟨_, hrank, fun r' => eq_idxOf_of_getElem? hnodup, hbound.trans_le h256,
    Coder.read_output hout hk, (encoder.listBefore_succ l hk).trans (moveToFront_of_getElem? hrank)⟩

/-- Settles O29: the outcomes of the decoder's command; `ls` is `listBefore`, which has a symbol at
each rank below ALPHA. -/
theorem mtfdDecodesTheRanks : Obligations.MtfdDecodesTheRanks := by
  refine ⟨rfl, rfl, fun s i l hi => ?_⟩
  rw [exec_mtfd_eq_run hi]
  refine ⟨decoder.run_of_lt l, fun hn => ⟨fun k => decoder.run_of_firstUnwritten l hn, fun x hx =>
    ⟨fun k v => decoder.run_of_first_ge l hn hx, fun hlt => ?_⟩⟩⟩
  obtain ⟨hframe, hrest, hout, hlst⟩ := decoder.commit_spec l hx rfl
  refine ⟨_, decoder.run_of_forall_lt l hn hx hlt, hframe, hrest, fun hl _ =>
    ⟨decoder.listBefore l x, rfl, hlst ▸ decoder.listBefore_length l x, fun k r hk => ?_⟩⟩
  have hbound : r.toNat < (decoder.listBefore l x k).length := by
    rw [((decoder.listBefore_perm l x k).trans hl).length_eq, identityList_length]
    exact hlt r (List.mem_of_getElem? hk)
  have hsymbol := List.getElem?_eq_getElem hbound
  have hread := Coder.read_output hout hk
  exact ⟨_, hsymbol, hread.trans (congrArg some (List.getD_eq_getElem _ _ hbound)),
    (decoder.listBefore_succ l hk).trans (moveToFront_of_getElem? hsymbol)⟩

/-- Settles O30: MTFI has no check, and its commit is the identity list (42_mtf R144). -/
theorem mtfiRestoresTheIdentityList : Obligations.MtfiRestoresTheIdentityList :=
  ⟨rfl, fun s => ⟨complete (putList (identityList s.alpha.toNat) s), rfl, rfl,
    identityList_length _, fun k hk => by simp [identityList, hk]⟩⟩

/-! ### The round trip (42_mtf R145) -/

/-- MTFE from `l`, and MOVE: the ranks stand in IBUF. -/
theorem run_encoder_move (l : List Byte) (hn : s.len.toNat ≤ s.bufsz) (hx : s.inputIs x)
    (hlt : ∀ v ∈ x, v.toNat < s.alpha.toNat) :
    ∃ t u, encoder.run l s = .next t ∧ execMove t = .next u ∧ t.lst = (mtfEncode l x).2 ∧
      u.alpha = s.alpha ∧ u.bufsz = s.bufsz ∧ u.len = s.len ∧ u.inputIs (mtfEncode l x).1 := by
  have hlen : (mtfEncode l x).1.length = s.len.toNat := (mtfEncode_length l x).trans hx.1
  have hw : BitVec.ofNat 32 (mtfEncode l x).1.length = s.len := by
    rw [mtfEncode_length, ofNat_length_of_inputIs hx]
  have hrun := encoder.run_of_forall_lt l hn hx hlt
  rw [encoder_loop] at hrun
  exact ⟨_, _, hrun, execMove_putOutput (hlen ▸ s.len.isLt) (putList (mtfEncode l x).2 s), rfl, rfl,
    rfl, hw, hlen.trans (congrArg BitVec.toNat hw).symm, Memory.holds_writeMany _ _ _⟩

/-- MTFD from `l` of the ranks that the encoder gave from `l`. -/
theorem run_decoder_mtfEncode (hn : u.len.toNat ≤ u.bufsz) (hin : u.inputIs (mtfEncode l x).1)
    (hlen : l.length = u.alpha.toNat) (h256 : u.alpha.toNat ≤ 256) (hmem : ∀ v ∈ x, v ∈ l) :
    ∃ v, decoder.run l u = .next v ∧
      v.olen = u.len ∧ Memory.holds v.obuf 0 x ∧ v.lst = (mtfEncode l x).2 := by
  have hloop : decoder.loop l (mtfEncode l x).1 = (x, (mtfEncode l x).2) := by
    rw [decoder_loop, mtfDecode_mtfEncode (hlen ▸ h256) hmem]
  have hrun := decoder.run_of_forall_lt l hn hin (hlen ▸ toNat_lt_of_mem_mtfEncode hmem)
  obtain ⟨hframe, -, hout, hlst⟩ := decoder.commit_spec l hin rfl
  rw [hloop] at hrun hframe hout hlst
  exact ⟨_, hrun, congrArg State.olen hframe, hout, hlst⟩

/-- MTFE from `l`, MOVE, and MTFD from `l`, whatever list LST holds by then. -/
theorem run_encoder_move_decoder (hn : s.len.toNat ≤ s.bufsz) (hx : s.inputIs x)
    (hlt : ∀ v ∈ x, v.toNat < s.alpha.toNat) (h256 : s.alpha.toNat ≤ 256)
    (hl : l.Perm (identityList s.alpha.toNat)) :
    ∃ t u, encoder.run l s = .next t ∧ execMove t = .next u ∧ u.alpha = s.alpha ∧
      ∀ l', ∃ v, decoder.run l { u with lst := l' } = .next v ∧
        v.olen = s.len ∧ Memory.holds v.obuf 0 x ∧ v.lst = t.lst := by
  obtain ⟨t, u, ht, hu, hlst, halpha, hbufsz, hulen, hin⟩ := run_encoder_move l hn hx hlt
  have hmem : ∀ v ∈ x, v ∈ l := fun v hv => hl.mem_iff.2 (mem_identityList_of_lt (hlt v hv))
  have hlen : l.length = s.alpha.toNat := hl.length_eq.trans (identityList_length _)
  rw [← hulen, ← hbufsz] at hn
  rw [← halpha] at hlen h256
  refine ⟨t, u, ht, hu, halpha, fun l' => ?_⟩
  rw [hlst, ← hulen]
  exact run_decoder_mtfEncode (u := { u with lst := l' }) hn hin hlen h256 hmem

/-- Settles O31: the round trip from the identity list, and from LST, which the invariant makes a
permutation of it. -/
theorem mtfRoundTripReturnsTheStream : Obligations.MtfRoundTripReturnsTheStream := by
  intro s x hs hn hx hlt
  obtain ⟨-, h256⟩ := hs.alphaRange
  constructor
  · obtain ⟨t, u, ht, hu, halpha, hv⟩ := run_encoder_move_decoder hn hx hlt h256 (.refl _)
    obtain ⟨v, hv, hres⟩ := hv u.lst
    refine ⟨t, u, v, (exec_mtfe_eq_run (by simp)).trans ht, hu, ?_, hres⟩
    rw [exec_mtfd_eq_run (l := identityList s.alpha.toNat) (by simp [halpha]), ← hv]
  · obtain ⟨t, u, ht, hu, -, hv⟩ := run_encoder_move_decoder hn hx hlt h256 hs.lstPerm
    obtain ⟨v, hv, hres⟩ := hv s.lst
    exact ⟨t, u, v, (exec_mtfe_eq_run (by simp)).trans ht, hu,
      (exec_mtfd_eq_run (by simp)).trans hv, hres⟩

/-! ### A stream in two pieces (42_mtf R146) -/

/-- The fresh and the continued form of a command are one coder, from the identity and from LST. -/
theorem exists_coder {fresh cont : Instr}
    (h : (fresh, cont) ∈ [(Instr.mtfe, Instr.mtfeC), (Instr.mtfd, Instr.mtfdC)]) :
    ∃ c : Coder, (∀ s, exec fresh s = c.run (identityList s.alpha.toNat) s) ∧
      ∀ s, exec cont s = c.run s.lst s := by
  simp only [List.mem_cons, Prod.mk.injEq, List.not_mem_nil, or_false] at h
  rcases h with ⟨rfl, rfl⟩ | ⟨rfl, rfl⟩
  · exact ⟨encoder, fun s => exec_mtfe_eq_run (by simp), fun s => exec_mtfe_eq_run (by simp)⟩
  · exact ⟨decoder, fun s => exec_mtfd_eq_run (by simp), fun s => exec_mtfd_eq_run (by simp)⟩

/-- A coder's command that ends without an error leaves what its loop gives. -/
theorem Coder.loop_eq_of_run (ht : c.run l s = .next t) (herr : t.status.err = false)
    (hx : s.inputIs x) (hlen : y.length = x.length) (hy : Memory.holds t.obuf 0 y) :
    c.loop l x = (y, t.lst) := by
  rcases (runCommand_eq_next_iff _ _ _ _).1 ht with ⟨x', hx', rfl⟩ | ⟨e, info, pos, -, rfl⟩
  · obtain ⟨-, hin⟩ := checkMtf_eq_ok hx'
    obtain rfl := State.inputIs_unique hin hx
    have hout : Memory.holds _ 0 (c.loop l x').1 := Memory.holds_writeMany s.obuf 0 _
    exact Prod.ext (Memory.holds_unique hout hy (by rw [Coder.loop_length, hlen])) rfl
  · cases herr

/-- Settles O32: the loop on `x ++ z` is the loop on `x` and then on `z`. -/
theorem mtfStreamMayBeCutAnywhere : Obligations.MtfStreamMayBeCutAnywhere := by
  intro s1 s2 s3 t1 t2 t3 x z y1 y2 y3 fresh cont hforms hx hz hxz _ halpha _ _ _ ht1 he1 hlst
    ht2 he2 ht3 he3 hl1 hy1 hl2 hy2 hl3 hy3
  obtain ⟨c, hfresh, hcont⟩ := exists_coder hforms
  rw [hfresh] at ht1 ht3
  rw [hcont, hlst] at ht2
  have h1 := Coder.loop_eq_of_run ht1 he1 hx hl1 hy1
  have h2 := Coder.loop_eq_of_run ht2 he2 hz hl2 hy2
  have h3 := Coder.loop_eq_of_run ht3 he3 hxz (by rw [List.length_append, hl3]) hy3
  rw [halpha, Coder.loop_append, h1, h2] at h3
  exact ⟨(congrArg Prod.fst h3).symm, (congrArg Prod.snd h3).symm⟩

/-! ### Byte streams (42_mtf R142, R143) -/

/-- Each of the four forms is a coder's command from some list. -/
theorem exists_exec_eq_run {i : Instr} (h : i ∈ [Instr.mtfe, .mtfeC, .mtfd, .mtfdC]) (s : State) :
    ∃ (c : Coder) (l : List Byte), exec i s = c.run l s := by
  simp only [List.mem_cons, List.not_mem_nil, or_false] at h
  rcases h with rfl | rfl | rfl | rfl
  · exact ⟨encoder, identityList s.alpha.toNat, exec_mtfe_eq_run (by simp)⟩
  · exact ⟨encoder, s.lst, exec_mtfe_eq_run (by simp)⟩
  · exact ⟨decoder, identityList s.alpha.toNat, exec_mtfd_eq_run (by simp)⟩
  · exact ⟨decoder, s.lst, exec_mtfd_eq_run (by simp)⟩

/-- Settles O33: every byte is below 256, so no check of the command fails. -/
theorem mtfIsTotalOnByteStreams : Obligations.MtfIsTotalOnByteStreams := by
  intro s x i halpha hn hx hi
  obtain ⟨c, l, hrun⟩ := exists_exec_eq_run hi s
  have hlt : ∀ v ∈ x, v.toNat < s.alpha.toNat := fun v _ => halpha ▸ v.isLt
  obtain ⟨hframe, -⟩ := c.commit_spec l hx rfl
  exact ⟨_, hrun.trans (c.run_of_forall_lt l hn hx hlt), rfl, congrArg State.olen hframe⟩

end Sys2Proof.Machine
end

/-! ## The control commands (43_control) -/

section

namespace Sys2Proof.Machine

variable {s t : State} {v : List Byte}

/-! ### NOP (43_control R160) -/

theorem exec_nop (s : State) : exec .nop s = .next (complete s) := rfl

/-- A run of `k + 1` steps whose first one answers is a run of `k` steps from its answer. -/
theorem run_succ_of_step {M : Host.Core} {k : Nat} {s t : M.State} (h : M.step s = .next t) :
    M.run (k + 1) s = M.run k t := by
  rw [Host.Core.run, h]

/-- On its turn a busy engine runs the command in flight. -/
theorem step_of_legal {i : Instr} {rest : List Move} (hb : s.status.busy = true)
    (hd : decode s.cmd = .legal i) (hm : s.moves = .engine :: rest) :
    step s = exec i { s with moves := rest } := by
  rw [step_of_engine hm]
  exact engineStep_of_legal (s := { s with moves := rest }) hb hd

/-- A command that the host writes to CMD of an idle engine, and that the engine completes in the
turn after it. -/
theorem run_of_issue {i : Instr} {w : Word} {rest : List Move} (hb : s.status.busy = false)
    (hd : decode w = .legal i) (hm : s.moves = .host (.write 0#3 0#32 w) :: .engine :: rest)
    (ht : exec i { issue w s with moves := rest, port := .okay } = .next t) :
    Host.Core.run core 2 s = .next t := by
  have hturn := step_of_legal (rest := rest)
    (s := { issue w { s with moves := .engine :: rest } with port := .okay }) rfl hd rfl
  exact (run_succ_of_step (M := core) (k := 1) (step_of_issue hb hm)).trans
    (run_succ_of_step (M := core) (k := 0) (hturn.trans ht))

/-- Settles O8: NOP has no check and its commit writes nothing; from reset the host's write issues
the word, and the engine's turn completes it. -/
theorem nopOnlyCompletes : Obligations.NopOnlyCompletes :=
  ⟨rfl, exec_nop, _, run_of_issue rfl rfl rfl (exec_nop _), rfl⟩

/-! ### MOVE (43_control R161) -/

/-- MOVE of the output `v`: no check fails, and the commit copies it. -/
theorem exec_move_of_holds (hlen : v.length = s.olen.toNat) (hv : Memory.holds s.obuf 0 v) :
    exec .move s = .next (complete (putInput v s)) := by
  rw [exec, execMove, (memRead_eq_ok_iff _ _ _ _ _).2 ⟨hlen, hv⟩, runCommand_ok]

/-- In a state of the invariant the output is written, whatever left it there. -/
theorem State.Inv.exists_output (h : s.Inv) :
    ∃ v, v.length = s.olen.toNat ∧ Memory.holds s.obuf 0 v := by
  cases hread : memRead .obuf s.obuf 0 s.olen.toNat with
  | ok v => exact ⟨v, (memRead_eq_ok_iff _ _ _ _ _).1 hread⟩
  | raise e info pos => exact absurd hread (memRead_ne_raise _ _ _ _ _ _ _)
  | fault f =>
    obtain ⟨i, -, -, hi, hnone, -⟩ := (memRead_eq_fault_iff _ _ _ _ _).1 hread
    exact absurd hnone (h.outputWritten i (by omega))

theorem putInput_eq (hlen : v.length = s.olen.toNat) :
    putInput v s = { s with ibuf := Memory.writeMany s.ibuf 0 v, len := s.olen } := by
  rw [putInput, hlen, BitVec.ofNat_toNat, BitVec.setWidth_eq]

/-- The bytes that the first copy has written stand there already when the second writes them. -/
theorem complete_putInput_idem (h : Memory.wf s.ibuf) (v : List Byte) :
    complete (putInput v (complete (putInput v s))) = complete (putInput v s) := by
  have hwrite : Memory.writeMany (Memory.writeMany s.ibuf 0 v) 0 v = Memory.writeMany s.ibuf 0 v :=
    Memory.writeMany_of_holds (Memory.wf_writeMany h 0 v) (Memory.holds_writeMany s.ibuf 0 v)
  simp only [complete, putInput, hwrite]

/-- Settles O9: MOVE reads the output and commits the copy; in a state of the invariant there is an
output to read, and the first copy leaves OBUF and OLEN for the second. -/
theorem moveCopiesOutputToInput : Obligations.MoveCopiesOutputToInput := by
  refine ⟨rfl, fun s v hlen hv => ?_, fun s hs => ?_⟩
  · refine ⟨_, exec_move_of_holds hlen hv, ?_, Memory.holds_writeMany s.ibuf 0 v, fun a ha =>
      Memory.read_writeMany_outside (.inr (by rwa [Nat.zero_add]))⟩
    rw [putInput_eq hlen]
    rfl
  · obtain ⟨v, hlen, hv⟩ := hs.exists_output
    have hagain : exec .move (complete (putInput v s)) =
        .next (complete (putInput v (complete (putInput v s)))) := exec_move_of_holds hlen hv
    rw [complete_putInput_idem hs.ibufForm.1] at hagain
    exact ⟨_, exec_move_of_holds hlen hv, rfl, hagain⟩

end Sys2Proof.Machine
end

/-! ## The engine's turn (60_exceptions R174) -/

section

namespace Sys2Proof.Machine

/-- Settles O5: `engineStep_of_legal`, in the state that the turn leaves for the command. -/
theorem stepRunsTheDecodedCommand : Obligations.StepRunsTheDecodedCommand :=
  fun _ _ _ hb hd => ⟨fun hm => (step_of_nil hm).trans (engineStep_of_legal hb hd),
    step_of_legal hb hd⟩

/-- Settles O6: `engineStep_of_idle`, in the state that the turn leaves. -/
theorem idleEngineTurnChangesNothing : Obligations.IdleEngineTurnChangesNothing :=
  fun _ _ hb => ⟨fun hm => (step_of_nil hm).trans (engineStep_of_idle hb),
    fun hm => (step_of_engine hm).trans (engineStep_of_idle hb)⟩

end Sys2Proof.Machine
end

/-! ## The error table (60_exceptions R171 to R173)

`Raise` is the table; each check phase raises only what stands in its command's rows, by one rule
for each way a check is built. -/

section

namespace Sys2Proof.Machine

variable {α β : Type} {s t : State} {i : Instr} {P : ErrCode → Word → Word → Prop}

/-! ### What a check can raise -/

/-- Every error that the check raises, with its ERRINFO and ERRPOS, is one of `P`. -/
def Check.RaisesOnly (c : Check α) (P : ErrCode → Word → Word → Prop) : Prop :=
  ∀ e info pos, c = .raise e info pos → P e info pos

theorem Check.RaisesOnly.ok (a : α) : (Check.ok a).RaisesOnly P := nofun

/-- The second check is made only on what the first one has found. -/
theorem Check.RaisesOnly.bind {c : Check α} {k : α → Check β} (hc : c.RaisesOnly P)
    (hk : ∀ a, c = .ok a → (k a).RaisesOnly P) : (c.bind k).RaisesOnly P := by
  intro e info pos h
  rcases (Check.bind_eq_raise_iff _ _ _ _ _).1 h with h | ⟨a, ha, h⟩
  · exact hc e info pos h
  · exact hk a ha e info pos h

theorem raiseIf_raisesOnly {bad : Bool} {e : ErrCode} {info pos : Word}
    (h : bad = true → P e info pos) : (raiseIf bad e info pos).RaisesOnly P := by
  intro e' info' pos' hraise
  obtain ⟨hbad, rfl, rfl, rfl⟩ := (raiseIf_eq_raise_iff _ _ _ _ _ _ _).1 hraise
  exact h hbad

theorem memRead_raisesOnly (space : Space) (m : List (Nat × α)) (a n : Nat) :
    (memRead space m a n).RaisesOnly P :=
  fun _ _ _ h => absurd h (memRead_ne_raise _ _ _ _ _ _ _)

theorem checkLen_raisesOnly {capacity : Nat}
    (h : capacity < s.len.toNat → P .lenRange s.len 0#32) : (checkLen capacity s).RaisesOnly P :=
  raiseIf_raisesOnly fun hbad => h (of_decide_eq_true hbad)

theorem checkOrigin_raisesOnly {n : Nat} {r : Word}
    (h : 1 ≤ n → n ≤ r.toNat → P .originRange r 0#32) : (checkOrigin n r).RaisesOnly P := by
  refine raiseIf_raisesOnly fun hbad => ?_
  obtain ⟨h1, hr⟩ : 1 ≤ n ∧ n ≤ r.toNat := by simpa using hbad
  exact h h1 hr

/-- Only a byte that is ALPHA or more is raised, at its own index. -/
theorem checkBytes_raisesOnly {alpha i : Nat} {code : ErrCode} {x : List Byte}
    (h : ∀ k v, x[k]? = some v → alpha ≤ v.toNat →
      P code (v.setWidth 32) (BitVec.ofNat 32 (i + k))) :
    (checkBytes alpha code i x).RaisesOnly P := by
  induction x generalizing i with
  | nil => exact .ok ()
  | cons w x ih =>
    rw [checkBytes]
    split
    · rintro _ _ _ ⟨⟩
      exact h 0 w rfl ‹_›
    · refine ih fun k v hk hv => ?_
      rw [Nat.add_right_comm]
      exact h (k + 1) v hk hv

/-! ### The table (60_exceptions R172) -/

/-- The commands that check every byte against ALPHA, each with the code of its error. -/
abbrev ChecksBytes (i : Instr) (code : ErrCode) : Prop :=
  code = .symbolRange ∧ i ∈ [Instr.mtfe, .mtfeC] ∨ code = .rankRange ∧ i ∈ [Instr.mtfd, .mtfdC]

/-- The rows of legal commands: command, code, ERRINFO and ERRPOS, under the row's condition. -/
inductive Raise (s : State) : Instr → ErrCode → Word → Word → Prop where
  | blockLen {i : Instr} (hi : i ∈ [Instr.sort, .cmpr, .bwte, .bwteS, .bwtd])
      (hn : s.nmax < s.len.toNat) : Raise s i .lenRange s.len 0#32
  | serialLen (hn : s.nmax + 4 < s.len.toNat) : Raise s .bwtdS .lenRange s.len 0#32
  | streamLen {i : Instr} (hi : i ∈ [Instr.mtfe, .mtfeC, .mtfd, .mtfdC])
      (hn : s.bufsz < s.len.toNat) : Raise s i .lenRange s.len 0#32
  | header (h4 : s.len.toNat < 4) : Raise s .bwtdS .hdrShort s.len 0#32
  | origin (h1 : 1 ≤ s.len.toNat) (ho : s.len.toNat ≤ s.origin.toNat) :
      Raise s .bwtd .originRange s.origin 0#32
  | headerOrigin {b0 b1 b2 b3 : Byte} (h5 : 5 ≤ s.len.toNat)
      (hh : Memory.holds s.ibuf 0 [b0, b1, b2, b3])
      (ho : s.len.toNat - 4 ≤ (b0 ++ b1 ++ b2 ++ b3).toNat) :
      Raise s .bwtdS .originRange (b0 ++ b1 ++ b2 ++ b3) 0#32
  | arg0 (h0 : s.len.toNat ≤ s.arg0.toNat) : Raise s .cmpr .argRange s.arg0 0#32
  | arg1 (h1 : s.len.toNat ≤ s.arg1.toNat) : Raise s .cmpr .argRange s.arg1 1#32
  | byte {i : Instr} {code : ErrCode} (hi : ChecksBytes i code) {k : Nat} {v : Byte}
      (hk : k < s.len.toNat) (hread : Memory.read s.ibuf k = some v)
      (hv : s.alpha.toNat ≤ v.toNat) : Raise s i code (v.setWidth 32) (BitVec.ofNat 32 k)

/-! ### The check phases -/

theorem readBlock_raisesOnly (hi : i ∈ [Instr.sort, .cmpr, .bwte, .bwteS, .bwtd]) :
    (readBlock s).RaisesOnly (Raise s i) :=
  .bind (checkLen_raisesOnly (.blockLen hi)) fun _ _ => memRead_raisesOnly _ _ _ _

theorem checkCmpr_raisesOnly : (checkCmpr s).RaisesOnly (Raise s .cmpr) :=
  .bind (checkLen_raisesOnly (.blockLen (by simp))) fun _ _ =>
  .bind (raiseIf_raisesOnly fun h0 => .arg0 (of_decide_eq_true h0)) fun _ _ =>
  .bind (raiseIf_raisesOnly fun h1 => .arg1 (of_decide_eq_true h1)) fun _ _ =>
  memRead_raisesOnly _ _ _ _

theorem checkBwtd_raisesOnly : (checkBwtd s).RaisesOnly (Raise s .bwtd) :=
  .bind (checkLen_raisesOnly (.blockLen (by simp))) fun _ _ =>
  .bind (checkOrigin_raisesOnly .origin) fun _ _ =>
  memRead_raisesOnly _ _ _ _

/-- The rank that the header check takes is made of the four bytes that stand in IBUF. -/
theorem Raise.of_header {h : List Byte} (hh : readInput 0 4 s = .ok h) (h1 : 1 ≤ s.len.toNat - 4)
    (ho : s.len.toNat - 4 ≤ (headerRank h).toNat) :
    Raise s .bwtdS .originRange (headerRank h) 0#32 := by
  obtain ⟨hlen, hin⟩ := (readInput_eq_ok_iff _ _ _ _).1 hh
  match h, hlen with
  | [b0, b1, b2, b3], _ => exact .headerOrigin (by omega) hin ho

theorem checkBwtdS_raisesOnly : (checkBwtdS s).RaisesOnly (Raise s .bwtdS) :=
  .bind (checkLen_raisesOnly .serialLen) fun _ _ =>
  .bind (raiseIf_raisesOnly fun h4 => .header (of_decide_eq_true h4)) fun _ _ =>
  .bind (memRead_raisesOnly _ _ _ _) fun _ hh =>
  .bind (checkOrigin_raisesOnly (.of_header hh)) fun _ _ =>
  .bind (memRead_raisesOnly _ _ _ _) fun _ _ => .ok _

/-- Byte `k` of the stream is the element that stands in IBUF. -/
theorem Raise.of_stream {code : ErrCode} {x : List Byte} {k : Nat} {v : Byte}
    (hi : ChecksBytes i code) (hx : s.inputIs x) (hk : x[k]? = some v)
    (hv : s.alpha.toNat ≤ v.toNat) :
    Raise s i code (v.setWidth 32) (BitVec.ofNat 32 k) := by
  obtain ⟨hlen, hin⟩ := hx
  obtain ⟨hkx, -⟩ := List.getElem?_eq_some_iff.1 hk
  refine .byte hi (hlen ▸ hkx) ?_ hv
  rw [← Nat.zero_add k, hin k hkx, hk]

theorem checkMtf_raisesOnly {code : ErrCode} (hi : ChecksBytes i code) :
    (checkMtf code s).RaisesOnly (Raise s i) := by
  have hmtf : i ∈ [Instr.mtfe, .mtfeC] ++ [Instr.mtfd, .mtfdC] :=
    List.mem_append.2 (hi.imp And.right And.right)
  refine .bind (.bind (checkLen_raisesOnly (.streamLen hmtf)) fun _ _ =>
    memRead_raisesOnly _ _ _ _) fun x hx => .bind (checkBytes_raisesOnly fun k v hk hv => ?_)
    fun _ _ => .ok _
  rw [Nat.zero_add]
  exact .of_stream hi ((readStream_eq_ok_iff _ _).1 hx).2 hk hv

/-! ### The commands -/

/-- A commit that leaves STATUS reports no error of its own, so the check has raised it. -/
theorem runCommand_raise_of_err {c : Check α} {k : α → State → State} (hc : c.RaisesOnly P)
    (hk : ∀ a, (k a s).status = s.status) (hs : s.status.err = false)
    (h : runCommand c k s = .next t) (ht : t.status.err = true) :
    ∃ e info pos, P e info pos ∧ t = raiseError e info pos s := by
  rcases (runCommand_eq_next_iff _ _ _ _).1 h with ⟨a, -, rfl⟩ | ⟨e, info, pos, hraise, rfl⟩
  · rw [complete_status, hk] at ht
    exact absurd (hs.symm.trans ht) Bool.false_ne_true
  · exact ⟨e, info, pos, hc e info pos hraise, rfl⟩

/-- A command that ends in an error has raised it, by a row of the table. -/
theorem exec_raise_of_err (hs : s.status.err = false) (h : exec i s = .next t)
    (ht : t.status.err = true) :
    ∃ e info pos, Raise s i e info pos ∧ t = raiseError e info pos s := by
  cases i <;> rw [exec] at h
  case nop | mtfi => exact runCommand_raise_of_err (.ok ()) (fun _ => rfl) hs h ht
  case sort | bwte | bwteS =>
    exact runCommand_raise_of_err (readBlock_raisesOnly (by simp)) (fun _ => rfl) hs h ht
  case cmpr => exact runCommand_raise_of_err checkCmpr_raisesOnly (fun _ => rfl) hs h ht
  case bwtd =>
    exact runCommand_raise_of_err checkBwtd_raisesOnly
      (fun _ => (commitBwtd_sameOutside _ _ _).1) hs h ht
  case bwtdS =>
    refine runCommand_raise_of_err checkBwtdS_raisesOnly (fun p => ?_) hs h ht
    exact (commitBwtd_sameOutside p.1 p.2 s).1
  case mtfe | mtfeC | mtfd | mtfdC =>
    refine runCommand_raise_of_err (checkMtf_raisesOnly ?_) (fun _ => rfl) hs h ht
    simp [ChecksBytes]
  case move => exact runCommand_raise_of_err (memRead_raisesOnly _ _ _ _) (fun _ => rfl) hs h ht

/-- Settles O34: the error was raised, and `raiseError` writes nothing else. -/
theorem errorsChangeNothingElse : Obligations.ErrorsChangeNothingElse := by
  intro i s t hs h ht
  obtain ⟨e, info, pos, -, rfl⟩ := exec_raise_of_err hs h ht
  exact ⟨e.number_ne_zero, rfl⟩

/-- Settles O35: the error was raised by a row of `Raise`, and each row is one of the statement. -/
theorem errorsAreThoseOfTheTable : Obligations.ErrorsAreThoseOfTheTable := by
  intro i s t hs h ht
  obtain ⟨e, info, pos, hrow, rfl⟩ := exec_raise_of_err hs h ht
  cases hrow with
  | blockLen hi hn => exact .inl ⟨rfl, rfl, rfl, .inl ⟨hi, hn⟩⟩
  | serialLen hn => exact .inl ⟨rfl, rfl, rfl, .inr (.inl ⟨rfl, hn⟩)⟩
  | streamLen hi hn => exact .inl ⟨rfl, rfl, rfl, .inr (.inr ⟨hi, hn⟩)⟩
  | header h4 => exact .inr (.inl ⟨rfl, rfl, rfl, rfl, h4⟩)
  | origin h1 ho => exact .inr (.inr (.inl ⟨rfl, rfl, .inl ⟨rfl, rfl, h1, ho⟩⟩))
  | headerOrigin h5 hh ho =>
    exact .inr (.inr (.inl ⟨rfl, rfl, .inr ⟨rfl, h5, ho, _, _, _, _, hh, rfl⟩⟩))
  | arg0 h0 => exact .inr (.inr (.inr (.inl ⟨rfl, rfl, .inl ⟨rfl, rfl, h0⟩⟩)))
  | arg1 h1 => exact .inr (.inr (.inr (.inl ⟨rfl, rfl, .inr ⟨rfl, rfl, h1⟩⟩)))
  | byte hi hk hread hv =>
    refine .inr (.inr (.inr (.inr ⟨_, _, hk, hread, hv, rfl, rfl, ?_⟩)))
    exact hi.imp (.imp_left (congrArg ErrCode.number)) (.imp_left (congrArg ErrCode.number))

end Sys2Proof.Machine
end

/-! ## Reset and the busy hazards (70_reset R190 to R196) -/

section

namespace Sys2Proof.Machine

variable {α β : Type} {s t : State} {i : Instr} {rest : List Move} {space : BitVec 3}
  {index data : Word} {sp : Space}

/-! ### What a check can fault with (70_reset R193) -/

/-- Every fault that the check ends in is one of `P`. -/
def Check.FaultsOnly (c : Check α) (P : Fault → Prop) : Prop := ∀ f, c = .fault f → P f

/-- The fault Unwritten at an element below `n` that the storage `m` does not hold. -/
def UnwrittenBelow (space : Space) (m : List (Nat × α)) (n : Nat) (f : Fault) : Prop :=
  ∃ a, f = .unwritten space a ∧ a < n ∧ Memory.read m a = none

section
variable {P : Fault → Prop}

theorem Check.FaultsOnly.ok (a : α) : (Check.ok a).FaultsOnly P := nofun

/-- The second check is made only on what the first one has found. -/
theorem Check.FaultsOnly.bind {c : Check α} {k : α → Check β} (hc : c.FaultsOnly P)
    (hk : ∀ a, c = .ok a → (k a).FaultsOnly P) : (c.bind k).FaultsOnly P := by
  intro f h
  rcases (Check.bind_eq_fault_iff _ _ _).1 h with h | ⟨a, ha, h⟩
  · exact hc f h
  · exact hk a ha f h

theorem raiseIf_faultsOnly (bad : Bool) (e : ErrCode) (info pos : Word) :
    (raiseIf bad e info pos).FaultsOnly P :=
  fun f h => absurd h (raiseIf_ne_fault bad e info pos f)

theorem checkBytes_faultsOnly (alpha k : Nat) (code : ErrCode) (x : List Byte) :
    (checkBytes alpha code k x).FaultsOnly P := by
  induction x generalizing k with
  | nil => exact .ok ()
  | cons v x ih =>
    rw [checkBytes]
    split
    · exact nofun
    · exact ih (k + 1)

end

theorem memRead_faultsOnly (space : Space) (m : List (Nat × α)) {a n bound : Nat}
    (h : a + n ≤ bound) : (memRead space m a n).FaultsOnly (UnwrittenBelow space m bound) := by
  intro f hf
  obtain ⟨k, rfl, -, hk, hnone, -⟩ := (memRead_eq_fault_iff _ _ _ _ _).1 hf
  exact ⟨k, rfl, Nat.lt_of_lt_of_le hk h, hnone⟩

/-! ### The check phases -/

/-- The only fault of a command that reads IBUF (70_reset R193). -/
abbrev State.inputFault (s : State) : Fault → Prop := UnwrittenBelow .ibuf s.ibuf s.len.toNat

theorem readAll_faultsOnly : (readInput 0 s.len.toNat s).FaultsOnly s.inputFault :=
  memRead_faultsOnly _ _ (Nat.zero_add _).le

theorem readBlock_faultsOnly : (readBlock s).FaultsOnly s.inputFault :=
  .bind (raiseIf_faultsOnly _ _ _ _) fun _ _ => readAll_faultsOnly

theorem checkCmpr_faultsOnly : (checkCmpr s).FaultsOnly s.inputFault :=
  .bind (raiseIf_faultsOnly _ _ _ _) fun _ _ =>
  .bind (raiseIf_faultsOnly _ _ _ _) fun _ _ =>
  .bind (raiseIf_faultsOnly _ _ _ _) fun _ _ => readAll_faultsOnly

theorem checkBwtd_faultsOnly : (checkBwtd s).FaultsOnly s.inputFault :=
  .bind (raiseIf_faultsOnly _ _ _ _) fun _ _ =>
  .bind (raiseIf_faultsOnly _ _ _ _) fun _ _ => readAll_faultsOnly

/-- The header is read only once LEN is known to hold it. -/
theorem checkBwtdS_faultsOnly : (checkBwtdS s).FaultsOnly s.inputFault := by
  refine .bind (raiseIf_faultsOnly _ _ _ _) fun _ _ =>
    .bind (raiseIf_faultsOnly _ _ _ _) fun _ h4 => ?_
  have hlen : 4 ≤ s.len.toNat := by simpa using (raiseIf_eq_ok_iff _ _ _ _ _).1 h4
  exact .bind (memRead_faultsOnly _ _ hlen) fun _ _ =>
    .bind (raiseIf_faultsOnly _ _ _ _) fun _ _ =>
    .bind (memRead_faultsOnly _ _ (Nat.add_sub_cancel' hlen).le) fun _ _ => .ok _

theorem checkMtf_faultsOnly (code : ErrCode) : (checkMtf code s).FaultsOnly s.inputFault :=
  .bind (.bind (raiseIf_faultsOnly _ _ _ _) fun _ _ => readAll_faultsOnly) fun _ _ =>
  .bind (checkBytes_faultsOnly _ _ _ _) fun _ _ => .ok _

/-! ### The commands -/

theorem runCommand_fault_of_faultsOnly {P : Fault → Prop} {c : Check α} {k : α → State → State}
    {f : Fault} (hc : c.FaultsOnly P) (h : runCommand c k s = .fault f) : P f :=
  hc f ((runCommand_eq_fault_iff _ _ _ _).1 h)

theorem exec_inputFault {f : Fault} (hi : i ≠ .move) (h : exec i s = .fault f) :
    s.inputFault f := by
  cases i <;> rw [exec] at h
  case nop | mtfi => exact runCommand_fault_of_faultsOnly (.ok ()) h
  case sort | bwte | bwteS => exact runCommand_fault_of_faultsOnly readBlock_faultsOnly h
  case cmpr => exact runCommand_fault_of_faultsOnly checkCmpr_faultsOnly h
  case bwtd => exact runCommand_fault_of_faultsOnly checkBwtd_faultsOnly h
  case bwtdS => exact runCommand_fault_of_faultsOnly checkBwtdS_faultsOnly h
  case mtfe | mtfeC | mtfd | mtfdC =>
    exact runCommand_fault_of_faultsOnly (checkMtf_faultsOnly _) h
  case move => exact absurd rfl hi

theorem exec_move_fault {f : Fault} (h : exec .move s = .fault f) :
    UnwrittenBelow .obuf s.obuf s.olen.toNat f :=
  runCommand_fault_of_faultsOnly (memRead_faultsOnly _ _ (Nat.zero_add _).le) h

/-- Settles O36: a check phase faults only in a read of elements that the command is given. -/
theorem onlyUnwrittenOperandsStopACommand : Obligations.OnlyUnwrittenOperandsStopACommand := by
  refine fun i s => ⟨fun f h => ?_, exec_ne_refused i s⟩
  by_cases hi : i = .move
  · subst hi
    exact .inr ⟨rfl, exec_move_fault h⟩
  · exact .inl ⟨hi, exec_inputFault hi h⟩

/-! ### Transactions with a busy engine (70_reset R194, R195) -/

/-- A write in range that only an idle engine takes sets HAZ of a busy one. -/
theorem step_of_droppedWrite (hb : s.status.busy = true) (hp : idleOnly space index)
    (hs : Space.ofNumber space = some sp) (hi : index.toNat < sp.size s)
    (hm : s.moves = .host (.write space index data) :: rest) :
    step s = .next { dropWrite { s with moves := rest } with port := .okay } := by
  obtain ⟨u, hu, ht⟩ := step_write_eq_next (step_of_write hs hi hm) hm
  rw [step_of_write hs hi hm, ht, hu.eq_dropWrite hb hp, State.inTurn_of_cons hm]

/-- Settles O44: a write is dropped by `HostWrite.eq_dropWrite`, or reaches STATUS, CONFIG or a
place that takes nothing. -/
theorem busyWritesAreDropped : Obligations.BusyWritesAreDropped := by
  refine fun s space index data rest hb hm => ⟨?_, ?_, ?_, fun hp => ?_⟩
  · rintro (⟨rfl, hi⟩ | ⟨rfl, hi⟩)
    · have hlt : ∀ k ∈ [0#32, 3#32, 4#32, 5#32, 6#32], k.toNat < 14 := by simp
      exact step_of_droppedWrite (sp := .csr) hb (.inl ⟨rfl, hi⟩) rfl (hlt index hi) hm
    · exact step_of_droppedWrite (sp := .ibuf) hb (.inr rfl) rfl hi hm
  · rintro ⟨rfl, rfl⟩
    rw [step_of_csrWrite (r := .status) rfl hm, csrWrite, Status.writeOneToClear_eq, hb]
  · rintro ⟨rfl, rfl⟩
    exact step_of_csrWrite (r := .config) rfl hm
  · exact readOnlyWritesAreIgnored s space index data rest hm hp

/-- A busy engine answers no read of a register that the command in flight may change. -/
theorem step_of_busy_csrRead {r : Csr} (hb : s.status.busy = true)
    (hr : Csr.ofIndex index.toNat = some r) (hf : r.fixedWhileBusy = false)
    (hm : s.moves = .host (.read 0#3 index) :: rest) :
    step s = .fault (.busyRead .csr index.toNat) := by
  rw [step_of_read (sp := .csr) rfl (Csr.lt_of_ofIndex hr) hm, hostReadAt, readCsr, hr]
  simp [hb, hf]

/-- A busy engine answers no read of an element, be it written or not (log 8). -/
theorem step_of_busy_elementRead (hb : s.status.busy = true) (hsp : sp ≠ .csr)
    (hs : Space.ofNumber space = some sp) (hi : index.toNat < sp.size s)
    (hm : s.moves = .host (.read space index) :: rest) :
    step s = .fault (.busyRead sp index.toNat) := by
  rw [step_of_read hs hi hm]
  cases sp with
  | csr => exact absurd rfl hsp
  | ibuf | obuf | ord | lst => simp [hostReadAt, hb]

/-- Settles O45: the registers by whether their reads are fixed while busy, and the elements. -/
theorem busyReadsAnswerOrFault : Obligations.BusyReadsAnswerOrFault := by
  refine fun s space index rest hb hm => ⟨?_, ?_, ?_, ?_, ?_⟩
  · rintro rfl
    refine ⟨fun v hv => ?_, fun hi => ?_⟩
    · simp only [List.mem_cons, Prod.mk.injEq, List.not_mem_nil, or_false] at hv
      rcases hv with ⟨rfl, rfl⟩ | ⟨rfl, rfl⟩ | ⟨rfl, rfl⟩ | ⟨rfl, rfl⟩ | ⟨rfl, rfl⟩ | ⟨rfl, rfl⟩ |
        ⟨rfl, rfl⟩ | ⟨rfl, rfl⟩ <;>
        exact step_of_csrRead rfl rfl hm
    · simp only [List.mem_cons, List.not_mem_nil, or_false] at hi
      rcases hi with rfl | rfl | rfl | rfl | rfl | rfl <;>
        exact step_of_busy_csrRead hb rfl rfl hm
  all_goals
    rintro rfl hi
  · exact step_of_busy_elementRead (sp := .ibuf) hb (by decide) rfl hi hm
  · exact step_of_busy_elementRead (sp := .obuf) hb (by decide) rfl hi hm
  · exact step_of_busy_elementRead (sp := .ord) hb (by decide) rfl hi hm
  · exact step_of_busy_elementRead (sp := .lst) hb (by decide) rfl hi hm

/-! ### BUSY ends (70_reset R196) -/

theorem engineStep_ne_refused (s : State) (r : Refusal) : engineStep s ≠ .refused r := by
  rw [engineStep]
  split
  · split
    · exact exec_ne_refused _ _ _
    · exact nofun
  · exact nofun

theorem hostReadAt_ne_refused (sp : Space) (k : Nat) (s : State) (r : Refusal) :
    hostReadAt sp k s ≠ .refused r := by
  have answer_ne {n : Nat} (v : Option (BitVec n)) : answerElement sp k v s ≠ .refused r := by
    cases v <;> exact nofun
  cases sp with
  | csr =>
    rw [hostReadAt, readCsr]
    split
    · split <;> exact nofun
    · exact nofun
  | ibuf | obuf | ord | lst =>
    rw [hostReadAt]
    split
    · exact nofun
    · exact answer_ne _

theorem transact_ne_refused (x : Transaction) (s : State) (r : Refusal) :
    transact x s ≠ .refused r := by
  cases x with
  | read space index =>
    rw [transact]
    split
    · exact hostReadAt_ne_refused _ _ _ _
    · exact nofun
  | write space index data =>
    rw [transact]
    split <;> exact nofun

theorem step_ne_refused (s : State) (r : Refusal) : step s ≠ .refused r := by
  match hm : s.moves with
  | [] => exact step_of_nil hm ▸ engineStep_ne_refused _ r
  | .engine :: rest => exact step_of_engine hm ▸ engineStep_ne_refused _ r
  | .host x :: rest => exact step_of_host hm ▸ transact_ne_refused x _ r
  | .reset :: rest => exact step_of_reset hm ▸ nofun

/-- A turn that leaves the engine busy is the host's: its move has left the list. -/
theorem Turn.moves_eq_of_busy (ht : Turn s t) (hs : s.status.busy = true)
    (hb : t.status.busy = true) : ∃ m, s.moves = m :: t.moves := by
  have hcons {m : Move} {rest : List Move} (hm : s.moves = m :: rest) :
      s.moves = m :: s.moves.tail := by rw [hm, List.tail_cons]
  cases ht with
  | idle _ hi => exact absurd (hs.symm.trans hi) (by decide)
  | completion _ _ he =>
    exact absurd (hb.symm.trans (engineStep_completedFrom he hs).busy) (by decide)
  | read v hm => exact ⟨_, hcons hm⟩
  | write hm hw =>
    have hmoves := congrArg State.moves (hw.frozenFrom hs).2
    exact ⟨_, (hcons hm).trans (congrArg _ hmoves.symm)⟩
  | reset => cases hb

/-- A run stops at the fault of its first step. -/
theorem run_succ_of_fault {M : Host.Core} {k : Nat} {s : M.State} {f : M.Fault}
    (h : M.step s = .fault f) : M.run (k + 1) s = .fault f := by
  rw [Host.Core.run, h]

/-- BUSY ends in `k` steps, or a model fault stops the run. -/
def State.EndsOrFaultsIn (s : State) (k : Nat) : Prop :=
  (∃ t, Host.Core.run core k s = .next t ∧ t.status.busy = false) ∨
    ∃ f, Host.Core.run core k s = .fault f

theorem State.EndsOrFaultsIn.of_step {k : Nat} (h : step s = .next t) (ht : t.EndsOrFaultsIn k) :
    s.EndsOrFaultsIn (k + 1) := by
  rw [State.EndsOrFaultsIn, run_succ_of_step (M := core) h]
  exact ht

theorem State.EndsOrFaultsIn.of_fault {f : Fault} (h : step s = .fault f) :
    s.EndsOrFaultsIn 1 :=
  .inr ⟨f, run_succ_of_fault (M := core) (k := 0) h⟩

/-- Every turn after which the engine is still busy takes a move off the list. -/
theorem exists_endsOrFaultsIn (s : State) (hb : s.status.busy = true) :
    ∃ k, k ≤ s.moves.length + 1 ∧ s.EndsOrFaultsIn k := by
  cases hstep : step s with
  | fault f => exact ⟨1, Nat.le_add_left _ _, .of_fault hstep⟩
  | refused r => exact absurd hstep (step_ne_refused s r)
  | next t =>
    cases ht : t.status.busy with
    | false => exact ⟨1, Nat.le_add_left _ _, .of_step hstep (.inl ⟨t, rfl, ht⟩)⟩
    | true =>
      obtain ⟨m, hm⟩ := (Turn.of_step hstep).moves_eq_of_busy hb ht
      obtain ⟨k, hk, hend⟩ := exists_endsOrFaultsIn t ht
      exact ⟨k + 1, by rw [hm]; exact Nat.succ_le_succ hk, .of_step hstep hend⟩
termination_by s.moves.length
decreasing_by rw [hm]; exact Nat.lt_succ_self _

/-- Settles O55, by recursion on the moves listed. -/
theorem busyEndsOrFaultsWithinTheMoves : Obligations.BusyEndsOrFaultsWithinTheMoves :=
  exists_endsOrFaultsIn

/-! ### Reset (70_reset R190) -/

theorem identityList_getElem? {n k : Nat} (h : k < n) :
    (identityList n)[k]? = some (BitVec.ofNat 8 k) := by
  simp [identityList, h]

/-- Settles O56: power-on and a reset in the middle of a command both leave a `resetMachine`. -/
theorem resetLeavesTheSpecifiedState : Obligations.ResetLeavesTheSpecifiedState := by
  refine ⟨fun s hs => ?_, rfl, rfl, rfl, fun s0 rest hm => ⟨_, step_of_reset hm, rfl, rfl, rfl⟩⟩
  obtain ⟨u, rfl⟩ : ∃ u, s = resetMachine u := by
    rcases hs with rfl | ⟨s0, rest, hm, hstep, -⟩
    · exact ⟨State.reset, rfl⟩
    · cases (step_of_reset hm).symm.trans hstep
      exact ⟨_, rfl⟩
  exact ⟨rfl, rfl, rfl, rfl, rfl, rfl, rfl, rfl, rfl, rfl, rfl, identityList_length _,
    fun k hk => identityList_getElem? hk, fun a => ⟨rfl, rfl, rfl⟩, rfl⟩

/-- Settles O57: `State.resetFor_inv`, with NMAX in its range. -/
theorem resetMeetsTheInvariant : Obligations.ResetMeetsTheInvariant := by
  have hcap : 1 ≤ State.reset.nmax ∧ State.reset.nmax ≤ 2 ^ 31 := by
    rw [State.reset_nmax]
    exact ⟨Nat.le_add_left _ _, Config.nmax_le⟩
  exact State.resetFor_inv hcap (by decide)

end Sys2Proof.Machine
end
